-- ==== Sys2Proof/Word.lean ====
section
/-! DEFINITION. The word types of block_reducer and the closed sets of names that its encodings and its
memory port use (00_scope.md R7, R9, R11; 30_encoding.md R59, R61). -/

namespace Sys2Proof

/-- A register or a data word: `REG_BITS` = 32 (00_scope.md R7). -/
abbrev Word := BitVec 32

/-- One byte of platform memory, and one channel sample: `SAMPLE_BITS` = 8 (00_scope.md R7). -/
abbrev Byte := BitVec 8

/-- A width, a height or a tile coordinate: `DIM_BITS` = 16 (00_scope.md R7). -/
abbrev Dim := BitVec 16

/-- A transaction key, SIZE then WR then OFF (30_encoding.md R59). -/
abbrev Key := BitVec 11

/-- The SIZE field of a transaction key (30_encoding.md R59). -/
inductive AccSize where
  | byte
  | half
  | word
  | reserved
deriving DecidableEq, Repr

/-- The kind of a master-port access (00_scope.md R8). -/
inductive AccessKind where
  | read
  | write
deriving DecidableEq, Repr

/-- What a command word asks for (30_encoding.md R64). -/
inductive Command where
  | nop
  | start
  | abort
  | softReset
  | reserved (word : Word)
deriving DecidableEq, Repr

end Sys2Proof
end

