-- ==== Sys2Proof/Config.lean ====
section
/-! DEFINITION. What is fixed for one machine: the parameters of 00_scope.md R7, the platform parameters of R8 that
no rule needs a value of, and the free values that the spec leaves open. -/

namespace Sys2Proof

/-- The channel count that a job must declare: `CH` = 3 (00_scope.md R7). -/
def Config.channels : BitVec 8 := 3#8

/-- The least legal tile edge, `BMIN` (00_scope.md R7). -/
def Config.blockMin : Int := 1

/-- The greatest legal tile edge, `BMAX` (00_scope.md R7). -/
def Config.blockMax : Int := 256

/-- One past the last address of platform memory: `ADDR_BITS` = 32 (00_scope.md R7). -/
def Config.memSize : Nat := 0x100000000

/-- The hardwired value of ID (10_state.md R17). -/
def Config.idValue : Word := 0x42520100#32

/-- What a byte of platform memory that no entry lists reads as. DESIGN CHOICE (log 5, unsafe): the launch memory
`MEM0` is a parameter (00_scope.md R8). Every launch memory is some list of the bytes that differ from this one. -/
def Config.blankByte : Byte := 0#8

/-- `REG_BASE`, the platform address of the register block: open, and no rule of the block depends on it
(00_scope.md R8, 93_implementation_defined.md U9, log 8). It has no body on purpose. -/
opaque Config.regBase : Word

/-- A free value of a given width, the `n`-th that a run draws: nothing constrains it. It stands wherever the spec says
"unspecified" or "any 8-bit value" (93_implementation_defined.md U1, U2, U4, U5, U6; log 3, 11, 12, 20). It has no
body on purpose. -/
opaque Config.freeBits (width n : Nat) : BitVec width

end Sys2Proof
end

