-- ==== Sys2Proof/Syntax.lean ====
section
/-! DEFINITION. The instructions: one constructor for each mnemonic of spec/opcode_table.json, with an operand for
every field that the rows of the mnemonic leave free. A host "instruction" is a register transaction, a "command" the
data word of a CMD write (00_scope.md R13). -/

namespace Sys2Proof

/-- One register transaction (rows of format TX, 30_encoding.md R63) or one command (rows of format CMD, R64). A write
carries its DATA, also where its rule ignores it. -/
inductive Instr where
  | rdId
  | rdCtrl
  | rdCmd
  | rdStatus
  | rdFormat
  | rdWidth
  | rdHeight
  | rdBlock
  | rdSrcBase
  | rdSrcStride
  | rdDstBase
  | rdDstStride
  | rdTiles
  | rdProgress
  | rdErrAddr
  | rdRsvd (off : BitVec 8)
  | wrId (data : Word)
  | wrCtrl (data : Word)
  | wrCmd (data : Word)
  | wrStatus (data : Word)
  | wrFormat (data : Word)
  | wrWidth (data : Word)
  | wrHeight (data : Word)
  | wrBlock (data : Word)
  | wrSrcBase (data : Word)
  | wrSrcStride (data : Word)
  | wrDstBase (data : Word)
  | wrDstStride (data : Word)
  | wrTiles (data : Word)
  | wrProgress (data : Word)
  | wrErrAddr (data : Word)
  | wrRsvd (off : BitVec 8) (data : Word)
  | accIllegal (size : AccSize) (wr : Bool) (off : BitVec 8)
  | nop
  | start
  | abort
  | softReset
  | cmdReserved (word : Word)
deriving DecidableEq, Repr

end Sys2Proof
end

