-- ==== Sys2Proof/WellFormed.lean ====
section
/-! DEFINITION. Which instructions an encoding exists for: the operand checks of 30_encoding.md R60, R63 and R64. -/

namespace Sys2Proof

/-- The offset of a word register: `OFF[1:0] = 0b00` (30_encoding.md R60). -/
def alignedOff (off : BitVec 8) : Bool := off.extractLsb' 0 2 == 0#2

/-- A reserved word offset, 0x3C..0xFC (10_state.md R32). -/
def reservedOff (off : BitVec 8) : Bool := alignedOff off && decide (0x3C ≤ off.toNat)

/-- A legal transaction is an aligned word (30_encoding.md R60). -/
def legalAccess (size : AccSize) (off : BitVec 8) : Bool := size == .word && alignedOff off

/-- A reserved command word: `MBZ ≠ 0`, or OP 0x4..0xF (30_encoding.md R61). -/
def reservedCommand (word : Word) : Bool :=
  word.extractLsb' 4 28 != 0#28 || decide (4 ≤ (word.extractLsb' 0 4).toNat)

/-- The instruction is one that some transaction key or command word encodes. -/
def Instr.wf : Instr → Bool
  | .rdRsvd off => reservedOff off
  | .wrRsvd off _ => reservedOff off
  | .accIllegal size _ off => !legalAccess size off
  | .cmdReserved word => reservedCommand word
  | .rdId | .rdCtrl | .rdCmd | .rdStatus | .rdFormat | .rdWidth | .rdHeight | .rdBlock | .rdSrcBase | .rdSrcStride
  | .rdDstBase | .rdDstStride | .rdTiles | .rdProgress | .rdErrAddr => true
  | .wrId _ | .wrCtrl _ | .wrCmd _ | .wrStatus _ | .wrFormat _ | .wrWidth _ | .wrHeight _ | .wrBlock _ | .wrSrcBase _
  | .wrSrcStride _ | .wrDstBase _ | .wrDstStride _ | .wrTiles _ | .wrProgress _ | .wrErrAddr _ => true
  | .nop | .start | .abort | .softReset => true

end Sys2Proof
end

