-- ==== Sys2Proof/Decode.lean ====
section
/-! DEFINITION. Decoding and encoding of transaction keys and command words (30_encoding.md R59 to R64), and the rows of
the opcode table as masks and values. -/

namespace Sys2Proof

/-- What the hardware is handed: a transaction `(KEY, DATA)` (30_encoding.md R59), or a command word, which reaches it as
the DATA of a write to CMD (R61). -/
inductive Encoding where
  | tx (key : Key) (data : Word)
  | cmd (word : Word)
deriving DecidableEq, Repr

/-- Why a row of bits is no encoding; the spec's own decoders are total (30_encoding.md R63, R64). -/
inductive DecodeReject where
  /-- A key word has a bit above bit 10, where R59 gives KEY eleven bits. -/
  | keyTooWide
  /-- There are more bits than a key and its DATA, or than a command word, hold. -/
  | tooManyBits
deriving DecidableEq, Repr

/-! ## Fields of a key and of a command word -/

/-- The SIZE field's value (30_encoding.md R59). -/
def AccSize.ofBits (b : BitVec 2) : AccSize :=
  if b = 0#2 then .byte else if b = 1#2 then .half else if b = 2#2 then .word else .reserved

/-- The bits of a SIZE (30_encoding.md R59). -/
def AccSize.bits : AccSize → BitVec 2
  | .byte => 0#2
  | .half => 1#2
  | .word => 2#2
  | .reserved => 3#2

/-- `KEY[10:9]` (30_encoding.md R59). -/
def keySize (key : Key) : AccSize := AccSize.ofBits (key.extractLsb' 9 2)

/-- `KEY[8]`, set for a write (30_encoding.md R59). -/
def keyWr (key : Key) : Bool := key.getLsbD 8

/-- `KEY[7:0]` (30_encoding.md R59). -/
def keyOff (key : Key) : BitVec 8 := key.extractLsb' 0 8

/-- A key from its fields (30_encoding.md R59). -/
def makeKey (size : AccSize) (wr : Bool) (off : BitVec 8) : Key := size.bits ++ BitVec.ofBool wr ++ off

/-- `DATA[3:0]` of a command word (30_encoding.md R61). -/
def commandOp (word : Word) : BitVec 4 := word.extractLsb' 0 4

/-- `DATA[31:4]` of a command word (30_encoding.md R61). -/
def commandMbz (word : Word) : BitVec 28 := word.extractLsb' 4 28

/-! ## Decoding -/

/-- The read row of an aligned word offset (30_encoding.md R63). -/
def readRow (off : BitVec 8) : Instr :=
  if off = 0x00#8 then .rdId
  else if off = 0x04#8 then .rdCtrl
  else if off = 0x08#8 then .rdCmd
  else if off = 0x0C#8 then .rdStatus
  else if off = 0x10#8 then .rdFormat
  else if off = 0x14#8 then .rdWidth
  else if off = 0x18#8 then .rdHeight
  else if off = 0x1C#8 then .rdBlock
  else if off = 0x20#8 then .rdSrcBase
  else if off = 0x24#8 then .rdSrcStride
  else if off = 0x28#8 then .rdDstBase
  else if off = 0x2C#8 then .rdDstStride
  else if off = 0x30#8 then .rdTiles
  else if off = 0x34#8 then .rdProgress
  else if off = 0x38#8 then .rdErrAddr
  else .rdRsvd off

/-- The write row of an aligned word offset (30_encoding.md R63). -/
def writeRow (off : BitVec 8) (data : Word) : Instr :=
  if off = 0x00#8 then .wrId data
  else if off = 0x04#8 then .wrCtrl data
  else if off = 0x08#8 then .wrCmd data
  else if off = 0x0C#8 then .wrStatus data
  else if off = 0x10#8 then .wrFormat data
  else if off = 0x14#8 then .wrWidth data
  else if off = 0x18#8 then .wrHeight data
  else if off = 0x1C#8 then .wrBlock data
  else if off = 0x20#8 then .wrSrcBase data
  else if off = 0x24#8 then .wrSrcStride data
  else if off = 0x28#8 then .wrDstBase data
  else if off = 0x2C#8 then .wrDstStride data
  else if off = 0x30#8 then .wrTiles data
  else if off = 0x34#8 then .wrProgress data
  else if off = 0x38#8 then .wrErrAddr data
  else .wrRsvd off data

/-- Decode of a transaction key, total over all 2048 keys (30_encoding.md R63). DATA is meaningful only for a legal
write (R59, R102; log 17). -/
def decodeKey (key : Key) (data : Word) : Instr :=
  if keySize key = .word ∧ alignedOff (keyOff key) = true then
    if keyWr key then writeRow (keyOff key) data else readRow (keyOff key)
  else .accIllegal (keySize key) (keyWr key) (keyOff key)

/-- Decode of a command word, total over all words (30_encoding.md R64). -/
def decodeCommand (word : Word) : Command :=
  if commandMbz word ≠ 0#28 then .reserved word
  else if commandOp word = 0#4 then .nop
  else if commandOp word = 1#4 then .start
  else if commandOp word = 2#4 then .abort
  else if commandOp word = 3#4 then .softReset
  else .reserved word

/-- The instruction that stands for a command. -/
def Command.toInstr : Command → Instr
  | .nop => .nop
  | .start => .start
  | .abort => .abort
  | .softReset => .softReset
  | .reserved word => .cmdReserved word

/-- Decoding, total: every key and every command word is exactly one instruction (30_encoding.md R63, R64). -/
def decode : Encoding → Instr
  | .tx key data => decodeKey key data
  | .cmd word => (decodeCommand word).toInstr

/-! ## Encoding -/

/-- The key of a read of a word register (30_encoding.md R63: `0x400 | OFF`). -/
def readKey (off : BitVec 8) : Key := makeKey .word false off

/-- The key of a write of a word register (30_encoding.md R63: `0x500 | OFF`). -/
def writeKey (off : BitVec 8) : Key := makeKey .word true off

/-- The encoding of an instruction (30_encoding.md R63, R64). A read and an illegal access carry no DATA, written 0. -/
def encode : Instr → Encoding
  | .rdId => .tx (readKey 0x00#8) 0#32
  | .rdCtrl => .tx (readKey 0x04#8) 0#32
  | .rdCmd => .tx (readKey 0x08#8) 0#32
  | .rdStatus => .tx (readKey 0x0C#8) 0#32
  | .rdFormat => .tx (readKey 0x10#8) 0#32
  | .rdWidth => .tx (readKey 0x14#8) 0#32
  | .rdHeight => .tx (readKey 0x18#8) 0#32
  | .rdBlock => .tx (readKey 0x1C#8) 0#32
  | .rdSrcBase => .tx (readKey 0x20#8) 0#32
  | .rdSrcStride => .tx (readKey 0x24#8) 0#32
  | .rdDstBase => .tx (readKey 0x28#8) 0#32
  | .rdDstStride => .tx (readKey 0x2C#8) 0#32
  | .rdTiles => .tx (readKey 0x30#8) 0#32
  | .rdProgress => .tx (readKey 0x34#8) 0#32
  | .rdErrAddr => .tx (readKey 0x38#8) 0#32
  | .rdRsvd off => .tx (readKey off) 0#32
  | .wrId data => .tx (writeKey 0x00#8) data
  | .wrCtrl data => .tx (writeKey 0x04#8) data
  | .wrCmd data => .tx (writeKey 0x08#8) data
  | .wrStatus data => .tx (writeKey 0x0C#8) data
  | .wrFormat data => .tx (writeKey 0x10#8) data
  | .wrWidth data => .tx (writeKey 0x14#8) data
  | .wrHeight data => .tx (writeKey 0x18#8) data
  | .wrBlock data => .tx (writeKey 0x1C#8) data
  | .wrSrcBase data => .tx (writeKey 0x20#8) data
  | .wrSrcStride data => .tx (writeKey 0x24#8) data
  | .wrDstBase data => .tx (writeKey 0x28#8) data
  | .wrDstStride data => .tx (writeKey 0x2C#8) data
  | .wrTiles data => .tx (writeKey 0x30#8) data
  | .wrProgress data => .tx (writeKey 0x34#8) data
  | .wrErrAddr data => .tx (writeKey 0x38#8) data
  | .wrRsvd off data => .tx (writeKey off) data
  | .accIllegal size wr off => .tx (makeKey size wr off) 0#32
  | .nop => .cmd 0#32
  | .start => .cmd 1#32
  | .abort => .cmd 2#32
  | .softReset => .cmd 3#32
  | .cmdReserved word => .cmd word

/-! ## The opcode table -/

/-- The mnemonic of an instruction, as the opcode table spells it (30_encoding.md R63, R64). -/
def Instr.mnemonic : Instr → String
  | .rdId => "RD_ID"
  | .rdCtrl => "RD_CTRL"
  | .rdCmd => "RD_CMD"
  | .rdStatus => "RD_STATUS"
  | .rdFormat => "RD_FORMAT"
  | .rdWidth => "RD_WIDTH"
  | .rdHeight => "RD_HEIGHT"
  | .rdBlock => "RD_BLOCK"
  | .rdSrcBase => "RD_SRC_BASE"
  | .rdSrcStride => "RD_SRC_STRIDE"
  | .rdDstBase => "RD_DST_BASE"
  | .rdDstStride => "RD_DST_STRIDE"
  | .rdTiles => "RD_TILES"
  | .rdProgress => "RD_PROGRESS"
  | .rdErrAddr => "RD_ERR_ADDR"
  | .rdRsvd _ => "RD_RSVD"
  | .wrId _ => "WR_ID"
  | .wrCtrl _ => "WR_CTRL"
  | .wrCmd _ => "WR_CMD"
  | .wrStatus _ => "WR_STATUS"
  | .wrFormat _ => "WR_FORMAT"
  | .wrWidth _ => "WR_WIDTH"
  | .wrHeight _ => "WR_HEIGHT"
  | .wrBlock _ => "WR_BLOCK"
  | .wrSrcBase _ => "WR_SRC_BASE"
  | .wrSrcStride _ => "WR_SRC_STRIDE"
  | .wrDstBase _ => "WR_DST_BASE"
  | .wrDstStride _ => "WR_DST_STRIDE"
  | .wrTiles _ => "WR_TILES"
  | .wrProgress _ => "WR_PROGRESS"
  | .wrErrAddr _ => "WR_ERR_ADDR"
  | .wrRsvd _ _ => "WR_RSVD"
  | .accIllegal _ _ _ => "ACC_ILLEGAL"
  | .nop => "NOP"
  | .start => "START"
  | .abort => "ABORT"
  | .softReset => "SOFT_RESET"
  | .cmdReserved _ => "CMD_RESERVED"

/-- A row of the opcode table: it stands for the words `v` with `v &&& mask = value`. -/
structure OpcodeRow (width : Nat) where
  mnemonic : String
  value : BitVec width
  mask : BitVec width
deriving DecidableEq, Repr

/-- The row stands for the word. -/
def OpcodeRow.covers {width : Nat} (row : OpcodeRow width) (v : BitVec width) : Bool := v &&& row.mask == row.value

/-- The rows over transaction keys (30_encoding.md R63). -/
def txRows : List (OpcodeRow 11) :=
  [⟨"RD_ID", 0x400#11, 0x7FF#11⟩,
   ⟨"RD_CTRL", 0x404#11, 0x7FF#11⟩,
   ⟨"RD_CMD", 0x408#11, 0x7FF#11⟩,
   ⟨"RD_STATUS", 0x40C#11, 0x7FF#11⟩,
   ⟨"RD_FORMAT", 0x410#11, 0x7FF#11⟩,
   ⟨"RD_WIDTH", 0x414#11, 0x7FF#11⟩,
   ⟨"RD_HEIGHT", 0x418#11, 0x7FF#11⟩,
   ⟨"RD_BLOCK", 0x41C#11, 0x7FF#11⟩,
   ⟨"RD_SRC_BASE", 0x420#11, 0x7FF#11⟩,
   ⟨"RD_SRC_STRIDE", 0x424#11, 0x7FF#11⟩,
   ⟨"RD_DST_BASE", 0x428#11, 0x7FF#11⟩,
   ⟨"RD_DST_STRIDE", 0x42C#11, 0x7FF#11⟩,
   ⟨"RD_TILES", 0x430#11, 0x7FF#11⟩,
   ⟨"RD_PROGRESS", 0x434#11, 0x7FF#11⟩,
   ⟨"RD_ERR_ADDR", 0x438#11, 0x7FF#11⟩,
   ⟨"RD_RSVD", 0x43C#11, 0x7FF#11⟩,
   ⟨"RD_RSVD", 0x440#11, 0x7C3#11⟩,
   ⟨"RD_RSVD", 0x480#11, 0x783#11⟩] ++
  [⟨"WR_ID", 0x500#11, 0x7FF#11⟩,
   ⟨"WR_CTRL", 0x504#11, 0x7FF#11⟩,
   ⟨"WR_CMD", 0x508#11, 0x7FF#11⟩,
   ⟨"WR_STATUS", 0x50C#11, 0x7FF#11⟩,
   ⟨"WR_FORMAT", 0x510#11, 0x7FF#11⟩,
   ⟨"WR_WIDTH", 0x514#11, 0x7FF#11⟩,
   ⟨"WR_HEIGHT", 0x518#11, 0x7FF#11⟩,
   ⟨"WR_BLOCK", 0x51C#11, 0x7FF#11⟩,
   ⟨"WR_SRC_BASE", 0x520#11, 0x7FF#11⟩,
   ⟨"WR_SRC_STRIDE", 0x524#11, 0x7FF#11⟩,
   ⟨"WR_DST_BASE", 0x528#11, 0x7FF#11⟩,
   ⟨"WR_DST_STRIDE", 0x52C#11, 0x7FF#11⟩,
   ⟨"WR_TILES", 0x530#11, 0x7FF#11⟩,
   ⟨"WR_PROGRESS", 0x534#11, 0x7FF#11⟩,
   ⟨"WR_ERR_ADDR", 0x538#11, 0x7FF#11⟩,
   ⟨"WR_RSVD", 0x53C#11, 0x7FF#11⟩,
   ⟨"WR_RSVD", 0x540#11, 0x7C3#11⟩,
   ⟨"WR_RSVD", 0x580#11, 0x783#11⟩] ++
  [⟨"ACC_ILLEGAL", 0x000#11, 0x600#11⟩,
   ⟨"ACC_ILLEGAL", 0x200#11, 0x600#11⟩,
   ⟨"ACC_ILLEGAL", 0x600#11, 0x600#11⟩,
   ⟨"ACC_ILLEGAL", 0x401#11, 0x601#11⟩,
   ⟨"ACC_ILLEGAL", 0x402#11, 0x603#11⟩]

/-- The rows over command words (30_encoding.md R64): the last 28 are those of a word whose highest set bit is `k`. -/
def cmdRows : List (OpcodeRow 32) :=
  [⟨"NOP", 0x00000000#32, 0xFFFFFFFF#32⟩,
   ⟨"START", 0x00000001#32, 0xFFFFFFFF#32⟩,
   ⟨"ABORT", 0x00000002#32, 0xFFFFFFFF#32⟩,
   ⟨"SOFT_RESET", 0x00000003#32, 0xFFFFFFFF#32⟩,
   ⟨"CMD_RESERVED", 0x00000004#32, 0xFFFFFFFC#32⟩,
   ⟨"CMD_RESERVED", 0x00000008#32, 0xFFFFFFF8#32⟩] ++
  (List.range' 4 28).map fun k => ⟨"CMD_RESERVED", 1#32 <<< k, 0xFFFFFFFF#32 <<< k⟩

/-! ## Rows of bits -/

/-- The encoding that a row of `nbits` bits spells, bit 0 the least significant bit of the first word (log 28): a key
alone in 16 bits, with DATA 0; a command word in 32; a key in the low 16 bits with DATA above it in 48. -/
def encodingOfBits (nbits w : Nat) : Except DecodeReject Encoding :=
  if nbits ≤ 16 then
    if w < 2 ^ 11 then .ok (.tx (BitVec.ofNat 11 w) 0#32) else .error .keyTooWide
  else if nbits ≤ 32 then
    if w < 2 ^ 32 then .ok (.cmd (BitVec.ofNat 32 w)) else .error .tooManyBits
  else if 2 ^ 48 ≤ w then .error .tooManyBits
  else if w % 2 ^ 16 < 2 ^ 11 then .ok (.tx (BitVec.ofNat 11 (w % 2 ^ 16)) (BitVec.ofNat 32 (w / 2 ^ 16)))
  else .error .keyTooWide

/-- The instruction that the decoder reads from a row of bits; none where the row is no encoding. -/
def decodeTableWord (nbits w : Nat) : Option Instr :=
  match encodingOfBits nbits w with
  | .ok e => some (decode e)
  | .error _ => none

/-- The transaction that carries an encoding to the hardware: a command word is the DATA of a write to CMD
(30_encoding.md R61, log 15). -/
def Encoding.transaction : Encoding → Key × Word
  | .tx key data => (key, data)
  | .cmd word => (writeKey 0x08#8, word)

end Sys2Proof
end

