-- ==== Sys2Proof/Machine/State.lean ====
section
/-! DEFINITION. The state of the machine as plain data (10_state.md R14, R16 to R40), the platform around it
(00_scope.md R8, 10_state.md R39), the ways a step can stop, and the state after reset. -/

namespace Sys2Proof.Machine

open Sys2Proof

/-! ## Closed sets of names -/

/-- The engine phase (10_state.md R35). STATUS.BUSY is 1 exactly in `busy`. -/
inductive Phase where
  | idle
  | busy
deriving DecidableEq, Repr

/-- The values of STATUS.ERR_CODE that are ever produced (60_exceptions.md R123; log 21). -/
inductive ErrCode where
  | none
  | invalidInput
  | badStride
  | range
  | overlap
  | busRead
  | busWrite
  | aborted
deriving DecidableEq, Repr

/-- The values of STATUS.WERR_CODE that are ever produced (60_exceptions.md R124; log 21). -/
inductive WErrCode where
  | none
  | startWhileBusy
  | illegalCmd
deriving DecidableEq, Repr

/-- RESP of a transaction (30_encoding.md R59). -/
inductive Resp where
  | okay
  | slverr
deriving DecidableEq, Repr

/-! ## Records -/

/-- The response of a transaction (30_encoding.md R59). -/
structure Response where
  resp : Resp
  rdata : Word
deriving DecidableEq, Repr

/-- The memory-mapped registers that store something (10_state.md R16 to R31). ID, CMD, TILES, STATUS.BUSY and STATUS.IRQ
are computed where they are read (log 22). -/
structure Regs where
  ieDone : Bool
  ieErr : Bool
  ieWerr : Bool
  rnd : Bool
  done : Bool
  err : Bool
  werr : Bool
  errCode : ErrCode
  werrCode : WErrCode
  channels : BitVec 8
  width : Dim
  height : Dim
  block : BitVec 9
  srcBase : Word
  srcStride : Word
  dstBase : Word
  dstStride : Word
  progress : Word
  errAddr : Word
deriving DecidableEq, Repr

/-- The job latch (10_state.md R34). -/
structure Job where
  w : Dim
  h : Dim
  b : BitVec 9
  tx : Dim
  ty : Dim
  src : Word
  ss : Word
  dst : Word
  ds : Word
  rnd : Bool
deriving DecidableEq, Repr

/-- The tile cursor (10_state.md R36). -/
structure Cursor where
  cbx : Dim
  cby : Dim
deriving DecidableEq, Repr

/-- The accumulator file (10_state.md R37): three channel sums of 24 bits and a pixel count of 17 (log 4). -/
structure Accumulators where
  acc0 : BitVec 24
  acc1 : BitVec 24
  acc2 : BitVec 24
  cnt : BitVec 17
deriving DecidableEq, Repr

/-- Platform memory (20_memory.md R41): the bytes that differ from `Config.blankByte`, addresses strictly rising. -/
abbrev Memory := List Host.Cell

/-- An interval of addresses, both ends in it, at which the platform answers accesses of a kind with a bus error
(00_scope.md R8, log 6). -/
structure BusGap where
  kind : AccessKind
  first : Nat
  last : Nat
deriving DecidableEq, Repr

/-- A job whose end the host has not yet seen by reading STATUS: the memory at its START, whether another agent wrote into its
ranges while it ran, and how many of its destination bytes, in the order of its writes, the rise of irq for its end has made
visible (20_memory.md R54, 70_reset_and_hazards.md R145, R146; log 12, 31). -/
structure JobRecord where
  job : Job
  startMem : Memory
  raced : Bool
  visible : Nat
deriving DecidableEq, Repr

/-- What an agent does next, in the interleaving of 20_memory.md R52 (log 1). -/
inductive Action where
  /-- The host issues a register transaction (30_encoding.md R59). -/
  | transaction (key : Key) (data : Word)
  /-- The engine moves (42_tile_engine.md R119). -/
  | engine
  /-- The reset input is asserted (70_reset_and_hazards.md R142). -/
  | hardReset
  /-- The host or another agent writes a byte of platform memory (70_reset_and_hazards.md R145). -/
  | hostWrite (addr : Word) (value : Byte)
  /-- The host reads a byte of platform memory (70_reset_and_hazards.md R146). -/
  | hostRead (addr : Word)
  /-- The host polls STATUS until BUSY is 0 (30_encoding.md R68). -/
  | wait
deriving DecidableEq, Repr

/-! ## The state -/

/-- The machine: the block's own state `(REGS, JOB, PHASE, CURSOR)` with the accumulators (10_state.md R14, R37), then the
platform (R39), then the model's own fields. -/
structure State where
  regs : Regs
  job : Job
  phase : Phase
  cursor : Cursor
  acc : Accumulators
  /-- Platform memory. -/
  mem : Memory
  /-- Where `BUS_OK` is false. -/
  busGaps : List BusGap
  /-- The response of the last completed transaction. -/
  response : Response
  /-- What the host's last memory read returned. -/
  hostByte : Byte
  /-- The actions still to come. -/
  inputs : List Action
  /-- Another agent has written into the running job's ranges. -/
  raced : Bool
  /-- Jobs whose end the host has not seen, the newest first. -/
  unsynced : List JobRecord
  /-- How many free values have been drawn. -/
  draws : Nat
deriving DecidableEq, Repr

/-! ## How a step can stop -/

/-- Why the machine stops. -/
inductive Fault where
  /-- The engine's step finds a latch and a cursor that no START can have left (41_commands.md R104: the job's ranges
  exist in memory; 10_state.md R36: the cursor is in the grid): an address past the end of memory or an empty tile would
  follow. Raised by the tile step alone, in states that no run from reset reaches. Safe (log 16). -/
  | jobNotStarted
deriving DecidableEq, Repr

/-- Why the model gives no answer. -/
inductive Refusal where
  /-- The instruction has no meaning in the model yet. Raised by `exec` alone; every instruction has one, so nothing
  raises it. Safe. -/
  | notModelled (mnemonic : String)
deriving DecidableEq, Repr

/-! ## Reset -/

/-- Every register at its reset value (10_state.md R40). -/
def Regs.reset : Regs where
  ieDone := false
  ieErr := false
  ieWerr := false
  rnd := false
  done := false
  err := false
  werr := false
  errCode := .none
  werrCode := .none
  channels := 3#8
  width := 0#16
  height := 0#16
  block := 1#9
  srcBase := 0#32
  srcStride := 0#32
  dstBase := 0#32
  dstStride := 0#32
  progress := 0#32
  errAddr := 0#32

/-- The machine right after hardware reset (10_state.md R40), with an empty script. JOB, CURSOR and the accumulators are
zero by DESIGN CHOICE (log 2, unsafe), memory lists nothing (log 5), every access succeeds (log 6), and the response is
OKAY with 0 (log 9). -/
def State.reset : State where
  regs := Regs.reset
  job := ⟨0#16, 0#16, 0#9, 0#16, 0#16, 0#32, 0#32, 0#32, 0#32, false⟩
  phase := .idle
  cursor := ⟨0#16, 0#16⟩
  acc := ⟨0#24, 0#24, 0#24, 0#17⟩
  mem := []
  busGaps := []
  response := ⟨.okay, 0#32⟩
  hostByte := 0#8
  inputs := []
  raced := false
  unsynced := []
  draws := 0

end Sys2Proof.Machine
end

