-- ==== Sys2Proof/Machine/Operands.lean ====
section
/-! DEFINITION. What an instruction's operands are: the operand that a register write takes from DATA (30_encoding.md R62),
the words that register reads return, and the integers that the engine computes from the job latch (10_state.md R29,
R34; 20_memory.md R43 to R45; 42_tile_engine.md R109). -/

namespace Sys2Proof.Machine

open Sys2Proof

/-! ## Operands of register writes -/

/-- A 32-bit word as a signed integer: `sext_32` (00_scope.md R10). -/
def sext32 (data : Word) : Int := data.toInt

/-- The BLOCK operand: the signed word clamped into 1..256 (10_state.md R24, 40_register_access.md R85). -/
def blockOperand (data : Word) : BitVec 9 :=
  BitVec.ofInt 9 (min (max (sext32 data) Config.blockMin) Config.blockMax)

/-- The WIDTH and HEIGHT operand, `DATA[15:0]` (30_encoding.md R62). -/
def dimOperand (data : Word) : Dim := data.extractLsb' 0 16

/-- The FORMAT operand, `DATA[7:0]` (30_encoding.md R62). -/
def channelsOperand (data : Word) : BitVec 8 := data.extractLsb' 0 8

/-- The byte lane `k` of a register word, bits `[8k+7:8k]` (20_memory.md R46). -/
def byteLane (word : Word) (k : Fin 4) : Byte := word.extractLsb' (8 * k.val) 8

/-- The platform address of a register (10_state.md R38, 20_memory.md R50). No rule of the block uses it. -/
def registerAddress (off : BitVec 8) : Word := Config.regBase + off.zeroExtend 32

/-! ## The tile grid -/

/-- `ceil(a / b) = (a + b - 1) / b` (00_scope.md R10). -/
def ceilDiv (a b : Nat) : Nat := (a + b - 1) / b

/-- TILES.TX, from the programmed registers (10_state.md R29). -/
def tilesX (r : Regs) : Dim := BitVec.ofNat 16 (ceilDiv r.width.toNat r.block.toNat)

/-- TILES.TY, from the programmed registers (10_state.md R29). -/
def tilesY (r : Regs) : Dim := BitVec.ofNat 16 (ceilDiv r.height.toNat r.block.toNat)

/-! ## Words that reads return -/

/-- CTRL as a word (40_register_access.md R72). -/
def ctrlWord (r : Regs) : Word :=
  0#28 ++ BitVec.ofBool r.rnd ++ BitVec.ofBool r.ieWerr ++ BitVec.ofBool r.ieErr ++ BitVec.ofBool r.ieDone

/-- FORMAT as a word (40_register_access.md R78). -/
def formatWord (r : Regs) : Word := 0#24 ++ r.channels

/-- WIDTH as a word (40_register_access.md R80). -/
def widthWord (r : Regs) : Word := 0#16 ++ r.width

/-- HEIGHT as a word (40_register_access.md R82). -/
def heightWord (r : Regs) : Word := 0#16 ++ r.height

/-- BLOCK as a word (40_register_access.md R84). -/
def blockWord (r : Regs) : Word := 0#23 ++ r.block

/-- TILES as a word (10_state.md R29, 40_register_access.md R94). -/
def tilesWord (r : Regs) : Word := tilesY r ++ tilesX r

/-! ## The job -/

/-- The job latch that START copies from the programmed registers (10_state.md R34, 41_commands.md R105). -/
def latchJob (r : Regs) : Job where
  w := r.width
  h := r.height
  b := r.block
  tx := tilesX r
  ty := tilesY r
  src := r.srcBase
  ss := r.srcStride
  dst := r.dstBase
  ds := r.dstStride
  rnd := r.rnd

/-- The address of sample `c` of source pixel `(x, y)` (20_memory.md R43). -/
def Job.srcAddr (j : Job) (x y c : Nat) : Nat := j.src.toNat + y * j.ss.toNat + 3 * x + c

/-- The address of sample `c` of tile `(bx, by)`, here `(col, row)` (20_memory.md R44). -/
def Job.dstAddr (j : Job) (col row c : Nat) : Nat := j.dst.toNat + row * j.ds.toNat + 3 * col + c

/-- The first byte of the source range (20_memory.md R45). -/
def Job.srcFirst (j : Job) : Nat := j.src.toNat

/-- The last byte of the source range (20_memory.md R45). -/
def Job.srcLast (j : Job) : Nat := j.src.toNat + (j.h.toNat - 1) * j.ss.toNat + 3 * j.w.toNat - 1

/-- The first byte of the destination range (20_memory.md R45). -/
def Job.dstFirst (j : Job) : Nat := j.dst.toNat

/-- The last byte of the destination range (20_memory.md R45). -/
def Job.dstLast (j : Job) : Nat := j.dst.toNat + (j.ty.toNat - 1) * j.ds.toNat + 3 * j.tx.toNat - 1

/-- An address of the source or the destination range of the job (70_reset_and_hazards.md R145). -/
def Job.inRanges (j : Job) (a : Nat) : Bool :=
  (decide (j.srcFirst ≤ a) && decide (a ≤ j.srcLast)) || (decide (j.dstFirst ≤ a) && decide (a ≤ j.dstLast))

/-- The tiles of the job in row-major order, as `(col, row)` (42_tile_engine.md R117). -/
def Job.tiles (j : Job) : List (Nat × Nat) :=
  (List.range j.ty.toNat).flatMap fun row => (List.range j.tx.toNat).map fun col => (col, row)

/-! ## One tile -/

/-- The first column of a tile (42_tile_engine.md R109). -/
def Job.x0 (j : Job) (col : Nat) : Nat := col * j.b.toNat

/-- One past the last column of a tile (42_tile_engine.md R109). -/
def Job.x1 (j : Job) (col : Nat) : Nat := min (j.x0 col + j.b.toNat) j.w.toNat

/-- The first row of a tile (42_tile_engine.md R109). -/
def Job.y0 (j : Job) (row : Nat) : Nat := row * j.b.toNat

/-- One past the last row of a tile (42_tile_engine.md R109). -/
def Job.y1 (j : Job) (row : Nat) : Nat := min (j.y0 row + j.b.toNat) j.h.toNat

/-- The pixel count `n` of a tile (42_tile_engine.md R109). -/
def Job.tileCount (j : Job) (col row : Nat) : Nat := (j.x1 col - j.x0 col) * (j.y1 row - j.y0 row)

/-- The pixels of a tile in row-major order, as `(x, y)` (42_tile_engine.md R109, R117). -/
def Job.tilePixels (j : Job) (col row : Nat) : List (Nat × Nat) :=
  (List.range' (j.y0 row) (j.y1 row - j.y0 row)).flatMap fun y =>
    (List.range' (j.x0 col) (j.x1 col - j.x0 col)).map fun x => (x, y)

/-- The reads of a tile in the order of 42_tile_engine.md R117, each with its channel. -/
def Job.tileReads (j : Job) (col row : Nat) : List (Fin 3 × Nat) :=
  (j.tilePixels col row).flatMap fun p =>
    [(0, j.srcAddr p.1 p.2 0), (1, j.srcAddr p.1 p.2 1), (2, j.srcAddr p.1 p.2 2)]

/-- The three destination addresses of a tile, in the order of 42_tile_engine.md R117. -/
def Job.tileDst (j : Job) (col row : Nat) : List Nat := [j.dstAddr col row 0, j.dstAddr col row 1, j.dstAddr col row 2]

/-- Every destination address of the job, in the order the job writes them (20_memory.md R49). -/
def Job.allDst (j : Job) : List Nat := j.tiles.flatMap fun t => j.tileDst t.1 t.2

/-! ## The rounded mean -/

/-- `RoundMean(S, n, rnd)`: the integer nearest to `S / n`, a tie going up, or to the even one when `rnd` is set
(42_tile_engine.md R114). -/
def roundMean (sum n : Nat) (rnd : Bool) : Nat :=
  let q := sum / n
  let r := sum % n
  if n < 2 * r then q + 1
  else if 2 * r < n then q
  else if rnd then q + q % 2
  else q + 1

/-! ## Accumulators -/

/-- The accumulators at the start of a tile step: sums 0 and the tile's count (42_tile_engine.md R119). -/
def Accumulators.start (count : Nat) : Accumulators := ⟨0#24, 0#24, 0#24, BitVec.ofNat 17 count⟩

/-- The sum of a channel (10_state.md R37). -/
def Accumulators.sum (acc : Accumulators) (c : Fin 3) : BitVec 24 :=
  if c = 0 then acc.acc0 else if c = 1 then acc.acc1 else acc.acc2

/-- `ACC[c] <- ACC[c] + v` (42_tile_engine.md R119). -/
def Accumulators.add (acc : Accumulators) (c : Fin 3) (v : Byte) : Accumulators :=
  if c = 0 then { acc with acc0 := acc.acc0 + v.zeroExtend 24 }
  else if c = 1 then { acc with acc1 := acc.acc1 + v.zeroExtend 24 }
  else { acc with acc2 := acc.acc2 + v.zeroExtend 24 }

/-- The byte that a channel's sum and the count round to (42_tile_engine.md R119; it fits by R115). -/
def Accumulators.mean (acc : Accumulators) (c : Fin 3) (rnd : Bool) : Byte :=
  BitVec.ofNat 8 (roundMean (acc.sum c).toNat acc.cnt.toNat rnd)

/-- The writes of a tile in the order of 42_tile_engine.md R117, each an address and the byte for it. -/
def Job.tileWrites (j : Job) (col row : Nat) (acc : Accumulators) : List (Nat × Byte) :=
  [(j.dstAddr col row 0, acc.mean 0 j.rnd), (j.dstAddr col row 1, acc.mean 1 j.rnd), (j.dstAddr col row 2, acc.mean 2 j.rnd)]

end Sys2Proof.Machine
end

