-- ==== Sys2Proof/Machine/Flags.lean ====
section
/-! DEFINITION. The flags: the codes and the word of STATUS (10_state.md R20), its clear mask (40_register_access.md R77),
and the interrupt level (60_exceptions.md R132). -/

namespace Sys2Proof.Machine

open Sys2Proof

/-- The number of an error code (60_exceptions.md R123). -/
def ErrCode.bits : ErrCode → BitVec 4
  | .none => 0#4
  | .invalidInput => 1#4
  | .badStride => 2#4
  | .range => 3#4
  | .overlap => 4#4
  | .busRead => 5#4
  | .busWrite => 6#4
  | .aborted => 7#4

/-- The number of a host-protocol error code (60_exceptions.md R124). -/
def WErrCode.bits : WErrCode → BitVec 4
  | .none => 0#4
  | .startWhileBusy => 1#4
  | .illegalCmd => 2#4

/-- STATUS.BUSY, which is PHASE (10_state.md R35). -/
def Phase.isBusy : Phase → Bool
  | .idle => false
  | .busy => true

/-- The interrupt level, a function of the registers alone (60_exceptions.md R132). -/
def Regs.irq (r : Regs) : Bool := (r.ieDone && r.done) || (r.ieErr && r.err) || (r.ieWerr && r.werr)

/-- The interrupt output `irq` of the block (60_exceptions.md R132). -/
def State.irq (s : State) : Bool := s.regs.irq

/-- STATUS as a word (10_state.md R20, 40_register_access.md R76). -/
def statusWord (phase : Phase) (r : Regs) : Word :=
  0#16 ++ r.werrCode.bits ++ r.errCode.bits ++ 0#3 ++ BitVec.ofBool r.irq ++ BitVec.ofBool r.werr ++ BitVec.ofBool r.err ++
    BitVec.ofBool r.done ++ BitVec.ofBool phase.isBusy

/-- `STATUS.DONE <- 0`. -/
def Regs.clearDone (r : Regs) : Regs := { r with done := false }

/-- `STATUS.ERR <- 0 ; STATUS.ERR_CODE <- 0` (10_state.md R20). -/
def Regs.clearErr (r : Regs) : Regs := { r with err := false, errCode := .none }

/-- `STATUS.WERR <- 0 ; STATUS.WERR_CODE <- 0` (10_state.md R20). -/
def Regs.clearWerr (r : Regs) : Regs := { r with werr := false, werrCode := .none }

/-- The write-one-to-clear of STATUS: DATA[1], DATA[2] and DATA[3] clear DONE, ERR and WERR (40_register_access.md R77). -/
def Regs.clearByMask (r : Regs) (data : Word) : Regs :=
  let r1 := if data.getLsbD 1 then r.clearDone else r
  let r2 := if data.getLsbD 2 then r1.clearErr else r1
  if data.getLsbD 3 then r2.clearWerr else r2

/-- `STATUS.ERR <- 1 ; STATUS.ERR_CODE <- code ; ERR_ADDR <- addr` (60_exceptions.md R129). -/
def Regs.setErr (r : Regs) (code : ErrCode) (addr : Word) : Regs := { r with err := true, errCode := code, errAddr := addr }

/-- WERR is set, and its code only where WERR was 0: the first cause is kept (60_exceptions.md R130). -/
def Regs.setWerr (r : Regs) (code : WErrCode) : Regs :=
  { r with werr := true, werrCode := if r.werr then r.werrCode else code }

end Sys2Proof.Machine
end

