-- ==== Sys2Proof/Machine/Ops.lean ====
section
/-! DEFINITION. The named operations over memory and registers: one byte of memory, the platform's answer to an access,
responses, the two ways of raising an error (60_exceptions.md R129, R130), reset (10_state.md R40), and free values. -/

namespace Sys2Proof.Machine

open Sys2Proof

/-! ## Platform memory -/

/-- The byte at an address (20_memory.md R41); an unlisted one reads as `Config.blankByte` (log 5). -/
def Memory.read (m : Memory) (a : Nat) : Byte :=
  match m with
  | [] => Config.blankByte
  | (b, v) :: rest => if b = a then v else Memory.read rest a

/-- Puts a byte at its place, or takes the entry out where the byte is the one that an unlisted address reads as. -/
def Memory.put (m : Memory) (a : Nat) (v : Byte) : Memory :=
  match m with
  | [] => if v = Config.blankByte then [] else [(a, v)]
  | (b, w) :: rest =>
    if a < b then
      if v = Config.blankByte then (b, w) :: rest else (a, v) :: (b, w) :: rest
    else if a = b then
      if v = Config.blankByte then rest else (a, v) :: rest
    else (b, w) :: Memory.put rest a v

/-- `MEM[a] <- v`, and no other byte (20_memory.md R41). Outside the 2^32 addresses there is nothing to write. -/
def Memory.write (m : Memory) (a : Nat) (v : Byte) : Memory :=
  if a < Config.memSize then Memory.put m a v else m

/-- Every address of the list is above `low`, the addresses rise strictly, and no entry holds the blank byte. -/
def Memory.wfAbove (low : Nat) (m : Memory) : Bool :=
  match m with
  | [] => true
  | (b, w) :: rest => decide (low ≤ b) && decide (b < Config.memSize) && (w != Config.blankByte) && Memory.wfAbove (b + 1) rest

/-- Memory is in canonical form. -/
def Memory.wf (m : Memory) : Bool := Memory.wfAbove 0 m

/-! ## The platform's answer -/

/-- The gap covers an access. -/
def BusGap.covers (g : BusGap) (a : Nat) (kind : AccessKind) : Bool :=
  (g.kind == kind) && decide (g.first ≤ a) && decide (a ≤ g.last)

/-- `BusOK(a, kind)` (00_scope.md R8, R11): no gap covers the access. -/
def busOk (gaps : List BusGap) (a : Nat) (kind : AccessKind) : Bool := !gaps.any fun g => g.covers a kind

/-! ## Responses -/

/-- A read completes: RESP OKAY and RDATA (30_encoding.md R59, R60). -/
def completeRead (rdata : Word) (s : State) : State := { s with response := ⟨.okay, rdata⟩ }

/-- A write completes: RESP OKAY, and RDATA 0 as R59 says for every write (30_encoding.md R59, R60). -/
def completeWrite (s : State) : State := { s with response := ⟨.okay, 0#32⟩ }

/-- An illegal transaction completes: RESP SLVERR and RDATA 0 (30_encoding.md R60). -/
def completeIllegal (s : State) : State := { s with response := ⟨.slverr, 0#32⟩ }

/-- A write to registers completes. -/
def writeRegs (r : Regs) (s : State) : State := completeWrite { s with regs := r }

/-! ## Errors -/

/-- `raise Error(code, addr)`: the block's exception entry (60_exceptions.md R129). PHASE becomes IDLE, which clears
STATUS.BUSY; ERR, ERR_CODE and ERR_ADDR record the error. PROGRESS, JOB, CURSOR and memory stay. The host is the handler:
its way back is WR_STATUS or another START (R131). -/
def raiseError (code : ErrCode) (addr : Word) (s : State) : State :=
  { s with phase := .idle, regs := s.regs.setErr code addr }

/-- `raise WErr(code)` (60_exceptions.md R130): nothing but WERR and WERR_CODE changes. -/
def raiseWErr (code : WErrCode) (s : State) : State := { s with regs := s.regs.setWerr code }

/-! ## Free values -/

/-- Ten free values in the shape of a job latch, the `n`-th draw on (10_state.md R34, log 3). -/
def freeJob (n : Nat) : Job where
  w := Config.freeBits 16 n
  h := Config.freeBits 16 (n + 1)
  b := Config.freeBits 9 (n + 2)
  tx := Config.freeBits 16 (n + 3)
  ty := Config.freeBits 16 (n + 4)
  src := Config.freeBits 32 (n + 5)
  ss := Config.freeBits 32 (n + 6)
  dst := Config.freeBits 32 (n + 7)
  ds := Config.freeBits 32 (n + 8)
  rnd := (Config.freeBits 1 (n + 9)).getLsbD 0

/-- Two free values in the shape of a cursor (10_state.md R36, log 3). -/
def freeCursor (n : Nat) : Cursor := ⟨Config.freeBits 16 n, Config.freeBits 16 (n + 1)⟩

/-- Free bytes at a list of addresses, the `n`-th draw on (70_reset_and_hazards.md R143, R145). -/
def scramble (m : Memory) (addrs : List Nat) (n : Nat) : Memory :=
  match addrs with
  | [] => m
  | a :: rest => scramble (Memory.write m a (Config.freeBits 8 n)) rest (n + 1)

/-- Free bytes at a list of addresses, and the draws they take. -/
def scrambleState (addrs : List Nat) (s : State) : State :=
  { s with mem := scramble s.mem addrs s.draws, draws := s.draws + addrs.length }

/-! ## Reset -/

/-- What SOFT_RESET and hardware reset share (41_commands.md R107, 70_reset_and_hazards.md R142): PHASE IDLE, every
register at its reset value, JOB and CURSOR unspecified (log 3). Memory stays. -/
def resetBlock (s : State) : State :=
  { s with regs := Regs.reset, phase := .idle, job := freeJob s.draws, cursor := freeCursor (s.draws + 10), draws := s.draws + 12 }

end Sys2Proof.Machine
end

