-- ==== Sys2Proof/Machine/Commands.lean ====
section
/-! DEFINITION. The meanings of the commands (41_commands.md). Each is the effect of a CMD write, so each completes that
write with OKAY (40_register_access.md R75). -/

namespace Sys2Proof.Machine

open Sys2Proof

/-! ## The checks of START -/

/-- Check 1 of START, the source's InvalidInput (41_commands.md R104, 60_exceptions.md R125). -/
def badInput (channels : BitVec 8) (j : Job) : Bool :=
  channels != Config.channels || j.w == 0#16 || j.h == 0#16

/-- Check 2 of START (41_commands.md R104). -/
def badStride (j : Job) : Bool := decide (j.ss.toNat < 3 * j.w.toNat) || decide (j.ds.toNat < 3 * j.tx.toNat)

/-- Check 3 of START (41_commands.md R104). -/
def badRange (j : Job) : Bool := decide (Config.memSize ≤ j.srcLast) || decide (Config.memSize ≤ j.dstLast)

/-- Check 4 of START (41_commands.md R104). -/
def badOverlap (j : Job) : Bool := decide (j.srcFirst ≤ j.dstLast) && decide (j.dstFirst ≤ j.srcLast)

/-- `StartCheck`: the first check that fails, in the order of 41_commands.md R104. -/
def startCheck (channels : BitVec 8) (j : Job) : ErrCode :=
  if badInput channels j then .invalidInput
  else if badStride j then .badStride
  else if badRange j then .range
  else if badOverlap j then .overlap
  else .none

/-! ## START -/

/-- What START does before its checks: DONE, ERR, PROGRESS and ERR_ADDR are cleared, and the job is latched (41_commands.md
R105). -/
def latchForStart (s : State) : State :=
  { s with
    regs := { s.regs.clearDone.clearErr with progress := 0#32, errAddr := 0#32 }
    job := latchJob s.regs }

/-- START on an IDLE block: latch, check, then refuse with Error(code, 0) or begin at tile (0, 0) (41_commands.md R105). -/
def startIdle (s : State) : State :=
  let latched := latchForStart s
  match startCheck latched.regs.channels latched.job with
  | .none => { latched with cursor := ⟨0#16, 0#16⟩, phase := .busy }
  | code => raiseError code 0#32 latched

/-- START (41_commands.md R105). While BUSY it raises WErr(START_WHILE_BUSY) and runs no check. -/
def execStart (s : State) : Host.Outcome State Fault Refusal :=
  .next (completeWrite
    (match s.phase with
    | .busy => raiseWErr .startWhileBusy s
    | .idle => startIdle s))

/-! ## The other commands -/

/-- NOP: no state change (41_commands.md R103). -/
def execNop (s : State) : Host.Outcome State Fault Refusal := .next (completeWrite s)

/-- ABORT: Error(ABORTED, 0) while BUSY, nothing while IDLE (41_commands.md R106). -/
def execAbort (s : State) : Host.Outcome State Fault Refusal :=
  .next (completeWrite
    (match s.phase with
    | .busy => raiseError .aborted 0#32 s
    | .idle => s))

/-- SOFT_RESET, in both phases (41_commands.md R107). Memory stays. -/
def execSoftReset (s : State) : Host.Outcome State Fault Refusal := .next (completeWrite (resetBlock s))

/-- CMD_RESERVED: WErr(ILLEGAL_CMD) and nothing else (41_commands.md R108). -/
def execCmdReserved (_word : Word) (s : State) : Host.Outcome State Fault Refusal :=
  .next (completeWrite (raiseWErr .illegalCmd s))

end Sys2Proof.Machine
end

