-- ==== Sys2Proof/Machine/Reads.lean ====
section
/-! DEFINITION. The meanings of the register reads (40_register_access.md): RDATA is the register's word, and a read clears
no register. -/

namespace Sys2Proof.Machine

open Sys2Proof

/-- RD_ID (40_register_access.md R70): the hardwired constant. -/
def execRdId (s : State) : Host.Outcome State Fault Refusal := .next (completeRead Config.idValue s)

/-- RD_CTRL (40_register_access.md R72). -/
def execRdCtrl (s : State) : Host.Outcome State Fault Refusal := .next (completeRead (ctrlWord s.regs) s)

/-- RD_CMD (40_register_access.md R74): CMD holds no state. -/
def execRdCmd (s : State) : Host.Outcome State Fault Refusal := .next (completeRead 0#32 s)

/-- RD_STATUS (40_register_access.md R76). A read that returns DONE = 1 or ERR = 1 orders the writes of the jobs so far
before the host's later reads (20_memory.md R54): from here on the host sees memory as it is. -/
def execRdStatus (s : State) : Host.Outcome State Fault Refusal :=
  .next (completeRead (statusWord s.phase s.regs)
    { s with unsynced := if s.regs.done || s.regs.err then [] else s.unsynced })

/-- RD_FORMAT (40_register_access.md R78). -/
def execRdFormat (s : State) : Host.Outcome State Fault Refusal := .next (completeRead (formatWord s.regs) s)

/-- RD_WIDTH (40_register_access.md R80). -/
def execRdWidth (s : State) : Host.Outcome State Fault Refusal := .next (completeRead (widthWord s.regs) s)

/-- RD_HEIGHT (40_register_access.md R82). -/
def execRdHeight (s : State) : Host.Outcome State Fault Refusal := .next (completeRead (heightWord s.regs) s)

/-- RD_BLOCK (40_register_access.md R84). -/
def execRdBlock (s : State) : Host.Outcome State Fault Refusal := .next (completeRead (blockWord s.regs) s)

/-- RD_SRC_BASE (40_register_access.md R86). -/
def execRdSrcBase (s : State) : Host.Outcome State Fault Refusal := .next (completeRead s.regs.srcBase s)

/-- RD_SRC_STRIDE (40_register_access.md R88). -/
def execRdSrcStride (s : State) : Host.Outcome State Fault Refusal := .next (completeRead s.regs.srcStride s)

/-- RD_DST_BASE (40_register_access.md R90). -/
def execRdDstBase (s : State) : Host.Outcome State Fault Refusal := .next (completeRead s.regs.dstBase s)

/-- RD_DST_STRIDE (40_register_access.md R92). -/
def execRdDstStride (s : State) : Host.Outcome State Fault Refusal := .next (completeRead s.regs.dstStride s)

/-- RD_TILES (40_register_access.md R94): from the programmed registers, not from the job. -/
def execRdTiles (s : State) : Host.Outcome State Fault Refusal := .next (completeRead (tilesWord s.regs) s)

/-- RD_PROGRESS (40_register_access.md R96). -/
def execRdProgress (s : State) : Host.Outcome State Fault Refusal := .next (completeRead s.regs.progress s)

/-- RD_ERR_ADDR (40_register_access.md R98). -/
def execRdErrAddr (s : State) : Host.Outcome State Fault Refusal := .next (completeRead s.regs.errAddr s)

/-- RD_RSVD, a read of any reserved offset: 0 (40_register_access.md R100). -/
def execRdRsvd (_off : BitVec 8) (s : State) : Host.Outcome State Fault Refusal := .next (completeRead 0#32 s)

/-- ACC_ILLEGAL: SLVERR, RDATA 0 and no state change (40_register_access.md R102, 30_encoding.md R60). -/
def execAccIllegal (_size : AccSize) (_wr : Bool) (_off : BitVec 8) (s : State) : Host.Outcome State Fault Refusal :=
  .next (completeIllegal s)

end Sys2Proof.Machine
end

