-- ==== Sys2Proof/Machine/Writes.lean ====
section
/-! DEFINITION. The meanings of the register writes (40_register_access.md). Every write completes with OKAY in both
phases; a write while BUSY changes the programmed register and not the running job (R69). -/

namespace Sys2Proof.Machine

open Sys2Proof

/-- WR_ID: DATA is ignored and the response is OKAY (40_register_access.md R71). -/
def execWrId (_data : Word) (s : State) : Host.Outcome State Fault Refusal := .next (completeWrite s)

/-- WR_CTRL: DATA[3:0] (40_register_access.md R73). -/
def execWrCtrl (data : Word) (s : State) : Host.Outcome State Fault Refusal :=
  .next (writeRegs
    { s.regs with
      ieDone := data.getLsbD 0, ieErr := data.getLsbD 1, ieWerr := data.getLsbD 2, rnd := data.getLsbD 3 } s)

/-- WR_CMD: the command of DATA, performed when the write is performed (40_register_access.md R75). -/
def execWrCmd (data : Word) (s : State) : Host.Outcome State Fault Refusal :=
  match decodeCommand data with
  | .nop => execNop s
  | .start => execStart s
  | .abort => execAbort s
  | .softReset => execSoftReset s
  | .reserved word => execCmdReserved word s

/-- WR_STATUS: write one to clear DONE, ERR and WERR (40_register_access.md R77). -/
def execWrStatus (data : Word) (s : State) : Host.Outcome State Fault Refusal :=
  .next (writeRegs (s.regs.clearByMask data) s)

/-- WR_FORMAT (40_register_access.md R79). -/
def execWrFormat (data : Word) (s : State) : Host.Outcome State Fault Refusal :=
  .next (writeRegs { s.regs with channels := channelsOperand data } s)

/-- WR_WIDTH (40_register_access.md R81). -/
def execWrWidth (data : Word) (s : State) : Host.Outcome State Fault Refusal :=
  .next (writeRegs { s.regs with width := dimOperand data } s)

/-- WR_HEIGHT (40_register_access.md R83). -/
def execWrHeight (data : Word) (s : State) : Host.Outcome State Fault Refusal :=
  .next (writeRegs { s.regs with height := dimOperand data } s)

/-- WR_BLOCK: the signed word clamped into 1..256 (40_register_access.md R85). -/
def execWrBlock (data : Word) (s : State) : Host.Outcome State Fault Refusal :=
  .next (writeRegs { s.regs with block := blockOperand data } s)

/-- WR_SRC_BASE (40_register_access.md R87). -/
def execWrSrcBase (data : Word) (s : State) : Host.Outcome State Fault Refusal :=
  .next (writeRegs { s.regs with srcBase := data } s)

/-- WR_SRC_STRIDE (40_register_access.md R89). -/
def execWrSrcStride (data : Word) (s : State) : Host.Outcome State Fault Refusal :=
  .next (writeRegs { s.regs with srcStride := data } s)

/-- WR_DST_BASE (40_register_access.md R91). -/
def execWrDstBase (data : Word) (s : State) : Host.Outcome State Fault Refusal :=
  .next (writeRegs { s.regs with dstBase := data } s)

/-- WR_DST_STRIDE (40_register_access.md R93). -/
def execWrDstStride (data : Word) (s : State) : Host.Outcome State Fault Refusal :=
  .next (writeRegs { s.regs with dstStride := data } s)

/-- WR_TILES: DATA is ignored and the response is OKAY (40_register_access.md R95). -/
def execWrTiles (_data : Word) (s : State) : Host.Outcome State Fault Refusal := .next (completeWrite s)

/-- WR_PROGRESS: DATA is ignored and the response is OKAY (40_register_access.md R97). -/
def execWrProgress (_data : Word) (s : State) : Host.Outcome State Fault Refusal := .next (completeWrite s)

/-- WR_ERR_ADDR: DATA is ignored and the response is OKAY (40_register_access.md R99). -/
def execWrErrAddr (_data : Word) (s : State) : Host.Outcome State Fault Refusal := .next (completeWrite s)

/-- WR_RSVD, a write of any reserved offset: ignored (40_register_access.md R101). -/
def execWrRsvd (_off : BitVec 8) (_data : Word) (s : State) : Host.Outcome State Fault Refusal := .next (completeWrite s)

end Sys2Proof.Machine
end

