-- ==== Sys2Proof/Machine/Dispatch.lean ====
section
/-! DEFINITION. The dispatch: one arm per instruction, each a direct call of its meaning. -/

namespace Sys2Proof.Machine

open Sys2Proof

def exec (i : Instr) (s : State) : Host.Outcome State Fault Refusal :=
  match i with
  | .rdId => Sys2Proof.Machine.execRdId s
  | .rdCtrl => Sys2Proof.Machine.execRdCtrl s
  | .rdCmd => Sys2Proof.Machine.execRdCmd s
  | .rdStatus => Sys2Proof.Machine.execRdStatus s
  | .rdFormat => Sys2Proof.Machine.execRdFormat s
  | .rdWidth => Sys2Proof.Machine.execRdWidth s
  | .rdHeight => Sys2Proof.Machine.execRdHeight s
  | .rdBlock => Sys2Proof.Machine.execRdBlock s
  | .rdSrcBase => Sys2Proof.Machine.execRdSrcBase s
  | .rdSrcStride => Sys2Proof.Machine.execRdSrcStride s
  | .rdDstBase => Sys2Proof.Machine.execRdDstBase s
  | .rdDstStride => Sys2Proof.Machine.execRdDstStride s
  | .rdTiles => Sys2Proof.Machine.execRdTiles s
  | .rdProgress => Sys2Proof.Machine.execRdProgress s
  | .rdErrAddr => Sys2Proof.Machine.execRdErrAddr s
  | .rdRsvd off => Sys2Proof.Machine.execRdRsvd off s
  | .wrId data => Sys2Proof.Machine.execWrId data s
  | .wrCtrl data => Sys2Proof.Machine.execWrCtrl data s
  | .wrCmd data => Sys2Proof.Machine.execWrCmd data s
  | .wrStatus data => Sys2Proof.Machine.execWrStatus data s
  | .wrFormat data => Sys2Proof.Machine.execWrFormat data s
  | .wrWidth data => Sys2Proof.Machine.execWrWidth data s
  | .wrHeight data => Sys2Proof.Machine.execWrHeight data s
  | .wrBlock data => Sys2Proof.Machine.execWrBlock data s
  | .wrSrcBase data => Sys2Proof.Machine.execWrSrcBase data s
  | .wrSrcStride data => Sys2Proof.Machine.execWrSrcStride data s
  | .wrDstBase data => Sys2Proof.Machine.execWrDstBase data s
  | .wrDstStride data => Sys2Proof.Machine.execWrDstStride data s
  | .wrTiles data => Sys2Proof.Machine.execWrTiles data s
  | .wrProgress data => Sys2Proof.Machine.execWrProgress data s
  | .wrErrAddr data => Sys2Proof.Machine.execWrErrAddr data s
  | .wrRsvd off data => Sys2Proof.Machine.execWrRsvd off data s
  | .accIllegal size wr off => Sys2Proof.Machine.execAccIllegal size wr off s
  | .nop => Sys2Proof.Machine.execNop s
  | .start => Sys2Proof.Machine.execStart s
  | .abort => Sys2Proof.Machine.execAbort s
  | .softReset => Sys2Proof.Machine.execSoftReset s
  | .cmdReserved word => Sys2Proof.Machine.execCmdReserved word s

end Sys2Proof.Machine
end

