-- ==== Sys2Proof/Machine/Engine.lean ====
section
/-! DEFINITION. The engine: TILE_STEP and the completion of a job (42_tile_engine.md R119, R120). It has no encoding
(30_encoding.md R65), so it is an action of `step` and no constructor of `Instr`. -/

namespace Sys2Proof.Machine

open Sys2Proof

/-- The reads of a tile, accumulated in order. The first that the platform refuses ends them: its address, with the sums so
far (42_tile_engine.md R119, 60_exceptions.md R128). -/
def readTile (mem : Memory) (gaps : List BusGap) (reads : List (Fin 3 × Nat)) (acc : Accumulators) :
    Except (Nat × Accumulators) Accumulators :=
  match reads with
  | [] => .ok acc
  | (c, a) :: rest =>
    if busOk gaps a .read then readTile mem gaps rest (acc.add c (Memory.read mem a)) else .error (a, acc)

/-- The writes of a tile in order. The first that the platform refuses ends them: its address, with the bytes before it
written (42_tile_engine.md R119, 60_exceptions.md R128). -/
def writeTile (gaps : List BusGap) (writes : List (Nat × Byte)) (mem : Memory) : Except (Nat × Memory) Memory :=
  match writes with
  | [] => .ok mem
  | (a, v) :: rest => if busOk gaps a .write then writeTile gaps rest (Memory.write mem a v) else .error (a, mem)

/-- The latch and the cursor are such that a START can have left: both ranges exist in memory, the cursor is in the grid
and the tile holds a pixel (41_commands.md R104, 10_state.md R36, 42_tile_engine.md R109; log 16). -/
def tileReady (j : Job) (cur : Cursor) : Bool :=
  decide (j.srcLast < Config.memSize) && decide (j.dstLast < Config.memSize) && decide (cur.cbx.toNat < j.tx.toNat) &&
    decide (cur.cby.toNat < j.ty.toNat) && decide (0 < j.tileCount cur.cbx.toNat cur.cby.toNat)

/-- Completion of the job: PHASE IDLE, STATUS.DONE 1 (42_tile_engine.md R120). JOB and CURSOR are unspecified while IDLE
(10_state.md R34, R36); here they keep the finished job's latch and its last tile, DESIGN CHOICE (log 29, unsafe for a claim
about them in IDLE). -/
def completeJob (s : State) : State := { s with phase := .idle, regs := { s.regs with done := true } }

/-- What follows a tile whose three bytes are written: PROGRESS counts it, and the cursor goes on in row-major order or the
job completes (42_tile_engine.md R117, R119). -/
def advance (s : State) : State :=
  let counted := { s with regs := { s.regs with progress := s.regs.progress + 1#32 } }
  if s.cursor.cbx.toNat + 1 < s.job.tx.toNat then { counted with cursor := ⟨s.cursor.cbx + 1#16, s.cursor.cby⟩ }
  else if s.cursor.cby.toNat + 1 < s.job.ty.toNat then { counted with cursor := ⟨0#16, s.cursor.cby + 1#16⟩ }
  else completeJob counted

/-- The tile step on a latch and a cursor that are ready: every read, then the three writes, then the count and the cursor.
A refused read writes nothing of this tile; a refused write leaves the bytes before it (42_tile_engine.md R119). -/
def processTile (s : State) : State :=
  let col := s.cursor.cbx.toNat
  let row := s.cursor.cby.toNat
  match readTile s.mem s.busGaps (s.job.tileReads col row) (Accumulators.start (s.job.tileCount col row)) with
  | .error (a, acc) => raiseError .busRead (BitVec.ofNat 32 a) { s with acc := acc }
  | .ok acc =>
    match writeTile s.busGaps (s.job.tileWrites col row acc) s.mem with
    | .error (a, mem) => raiseError .busWrite (BitVec.ofNat 32 a) { s with acc := acc, mem := mem }
    | .ok mem => advance { s with acc := acc, mem := mem }

/-- TILE_STEP (42_tile_engine.md R119). It is enabled exactly while PHASE = BUSY; asked to move in IDLE the engine has no
step, and nothing changes (10_state.md R35, log 14). -/
def tileStep (s : State) : Host.Outcome State Fault Refusal :=
  match s.phase with
  | .idle => .next s
  | .busy => if tileReady s.job s.cursor then .next (processTile s) else .fault .jobNotStarted

end Sys2Proof.Machine
end

