-- ==== Sys2Proof/Machine/Platform.lean ====
section
/-! DEFINITION. The agents around the block and what their interleaving leaves open (20_memory.md R52 to R54;
70_reset_and_hazards.md R142, R143, R145, R146): hardware reset, the memory accesses of the host and of other agents, the
bookkeeping of a job's beginning and end, and the fetch of the next transaction. -/

namespace Sys2Proof.Machine

open Sys2Proof

/-! ## The beginning and the end of a job -/

/-- The job ends here. Where another agent wrote into its ranges while it ran, every destination byte of the job holds an
unspecified value from now on (70_reset_and_hazards.md R145, log 11). -/
def jobEnded (job : Job) (raced : Bool) (after : State) : State :=
  if raced then { scrambleState job.allDst after with raced := false } else { after with raced := false }

/-- A job begins here: the host has not seen its end, and its START saw this memory (70_reset_and_hazards.md R146). -/
def jobBegan (after : State) : State :=
  { after with raced := false, unsynced := ⟨after.job, after.mem, false, 0⟩ :: after.unsynced }

/-- How many destination bytes a job has written when it ends, in the order of its writes: three for each tile that PROGRESS
counts, and after BUS_WRITE those of the tile at the cursor that precede ERR_ADDR (42_tile_engine.md R117, R119). -/
def bytesWritten (j : Job) (cur : Cursor) (r : Regs) : Nat :=
  3 * r.progress.toNat +
    if r.errCode = .busWrite then r.errAddr.toNat - j.dstAddr cur.cbx.toNat cur.cby.toNat 0 else 0

/-- The newest record's job has `n` of its writes visible to the host. -/
def markVisible (n : Nat) (records : List JobRecord) : List JobRecord :=
  match records with
  | [] => []
  | r :: rest => { r with visible := n } :: rest

/-- A job ends here. Where irq rises in this step, it rises for that job's end, and from here on that job's writes are visible
to the host; those of other jobs, and of a job whose end raises no irq, wait for a read of STATUS (20_memory.md R54,
70_reset_and_hazards.md R146; log 31). -/
def irqSeen (before after : State) : State :=
  if !before.irq && after.irq then
    { after with unsynced := markVisible (bytesWritten before.job before.cursor after.regs) after.unsynced }
  else after

/-- What the platform makes of an action that took the block from `before` to `after`. -/
def settle (before after : State) : State :=
  match before.phase, after.phase with
  | .busy, .idle => irqSeen before (jobEnded before.job before.raced after)
  | .idle, .busy => jobBegan after
  | .idle, .idle => after
  | .busy, .busy => after

/-- `settle` on an outcome: a fault or a refusal stays. -/
def settleOutcome (before : State) (out : Host.Outcome State Fault Refusal) : Host.Outcome State Fault Refusal :=
  match out with
  | .next after => .next (settle before after)
  | .fault f => .fault f
  | .refused r => .refused r

/-! ## Hardware reset -/

/-- Hardware reset (70_reset_and_hazards.md R142). While BUSY it may cut a tile step short: the three destination bytes of
the tile at the cursor hold free values afterwards (R143, log 20). -/
def hardReset (s : State) : State :=
  match s.phase with
  | .idle => resetBlock s
  | .busy => scrambleState (s.job.tileDst s.cursor.cbx.toNat s.cursor.cby.toNat) (resetBlock s)

/-! ## Memory accesses of the host and of other agents -/

/-- The newest record is the running job's. -/
def markRaced (records : List JobRecord) : List JobRecord :=
  match records with
  | [] => []
  | r :: rest => { r with raced := true } :: rest

/-- The host or another agent writes a byte. In a range of the running job that is the hazard of
70_reset_and_hazards.md R145, which the block does not detect. -/
def hostWrite (addr : Word) (value : Byte) (s : State) : State :=
  let written := { s with mem := Memory.write s.mem addr.toNat value }
  match s.phase with
  | .idle => written
  | .busy =>
    if s.job.inRanges addr.toNat then { written with raced := true, unsynced := markRaced s.unsynced } else written

/-- The sum of a channel over a tile of a memory (42_tile_engine.md R113). -/
def tileSum (m : Memory) (j : Job) (col row : Nat) (c : Nat) : Nat :=
  ((j.tilePixels col row).map fun p => (Memory.read m (j.srcAddr p.1 p.2 c)).toNat).sum

/-- The byte that a job writes for channel `c` of a tile, from the memory at its START (42_tile_engine.md R121). -/
def jobByte (m : Memory) (j : Job) (col row : Nat) (c : Nat) : Byte :=
  BitVec.ofNat 8 (roundMean (tileSum m j col row c) (j.tileCount col row) j.rnd)

/-- The tile and the channel that an address is the destination byte of, for a job. -/
def Job.dstSample (j : Job) (a : Nat) : Option (Nat × Nat × Nat) :=
  (j.tiles.flatMap fun t => [(t.1, t.2, 0), (t.1, t.2, 1), (t.1, t.2, 2)]).find? fun d => j.dstAddr d.1 d.2.1 d.2.2 == a

/-- The place of a destination byte in the order of the job's writes (42_tile_engine.md R117). -/
def Job.dstIndex (j : Job) (d : Nat × Nat × Nat) : Nat := 3 * (d.2.1 * j.tx.toNat + d.1) + d.2.2

/-- What an early read of a job's destination byte returns (70_reset_and_hazards.md R146): the byte at START, the byte that
the job writes, or the byte that memory `m` holds, as free bits say. The last is one of the first two, but where a reset
cut the tile (R143) or the host wrote the byte itself. Any byte, where another agent raced with the job (R145, log 12). A job
that ended early without writing the byte keeps the byte that it would have written as a candidate: R146 does not say what
its second value is, DESIGN CHOICE (log 30). -/
def earlyByte (m : Memory) (r : JobRecord) (d : Nat × Nat × Nat) (n : Nat) : Byte :=
  if r.raced then Config.freeBits 8 n
  else if Config.freeBits 2 n = 0#2 then Memory.read r.startMem (r.job.dstAddr d.1 d.2.1 d.2.2)
  else if Config.freeBits 2 n = 1#2 then jobByte r.startMem r.job d.1 d.2.1 d.2.2
  else Memory.read m (r.job.dstAddr d.1 d.2.1 d.2.2)

/-- The value an early read of an address returns, for the newest unseen job that writes there; none where no such job
does, or where irq has made that job's write visible (log 12, 31). -/
def earlyRead (m : Memory) (records : List JobRecord) (a n : Nat) : Option Byte :=
  match records with
  | [] => none
  | r :: rest =>
    match r.job.dstSample a with
    | some d => if r.job.dstIndex d < r.visible then none else some (earlyByte m r d n)
    | none => earlyRead m rest a n

/-- The host reads a byte (20_memory.md R52, R54; 70_reset_and_hazards.md R146). -/
def hostRead (addr : Word) (s : State) : State :=
  match earlyRead s.mem s.unsynced addr.toNat s.draws with
  | some v => { s with hostByte := v, draws := s.draws + 1 }
  | none => { s with hostByte := Memory.read s.mem addr.toNat }

/-! ## The `wait` line -/

/-- The key of RD_STATUS, which `wait` repeats (30_encoding.md R68). -/
def waitKey : Key := readKey 0x0C#8

/-- After a poll of STATUS: where it returned BUSY = 1 the loop goes round, and the engine moves once in between
(30_encoding.md R68, 70_reset_and_hazards.md R151; log 13). So `wait` makes at least one poll: R68 speaks of zero or more
and also of a last one that returns BUSY = 0, DESIGN CHOICE (log 32). -/
def pollAgain (s : State) : State :=
  if s.response.rdata.getLsbD 0 then { s with inputs := .engine :: .wait :: s.inputs } else s

/-- `pollAgain` on an outcome. -/
def pollOutcome (out : Host.Outcome State Fault Refusal) : Host.Outcome State Fault Refusal :=
  match out with
  | .next s => .next (pollAgain s)
  | .fault f => .fault f
  | .refused r => .refused r

/-! ## The fetch -/

/-- The engine moves, and the platform sees what became of the job. -/
def engineMove (s : State) : Host.Outcome State Fault Refusal := settleOutcome s (tileStep s)

/-- The transaction that hands an encoding to the slave port, as the next action. -/
def pushTransaction (e : Encoding) (s : State) : State :=
  { s with inputs := .transaction e.transaction.1 e.transaction.2 :: s.inputs }

/-- The row of bits as the next transaction; bits that spell no encoding change nothing. -/
def placeTableWord (nbits w : Nat) (s : State) : State :=
  match encodingOfBits nbits w with
  | .ok e => pushTransaction e s
  | .error _ => s

end Sys2Proof.Machine
end

