-- ==== Sys2Proof/Machine/Step.lean ====
section
/-! DEFINITION. One step of the machine: the next action of the interleaving (20_memory.md R52). With nothing pending the
engine moves while BUSY (70_reset_and_hazards.md R151) and the block waits in IDLE (60_exceptions.md R141). -/

namespace Sys2Proof.Machine

open Sys2Proof

/-- One step: a pending transaction is decoded and run, another pending action is performed, and with nothing pending the
engine has its turn (log 1, 13). -/
def step (s : State) : Host.Outcome State Fault Refusal :=
  match s.inputs with
  | [] => engineMove s
  | .transaction key data :: rest =>
    settleOutcome { s with inputs := rest } (exec (decode (.tx key data)) { s with inputs := rest })
  | .engine :: rest => engineMove { s with inputs := rest }
  | .hardReset :: rest => .next (settle { s with inputs := rest } (hardReset { s with inputs := rest }))
  | .hostWrite addr value :: rest => .next (hostWrite addr value { s with inputs := rest })
  | .hostRead addr :: rest => .next (hostRead addr { s with inputs := rest })
  | .wait :: rest => pollOutcome (exec (decode (.tx waitKey 0#32)) { s with inputs := rest })

/-- The state with the instruction of a row of bits as its next transaction (log 1, 28): the machine fetches no program,
so the next pending action is where its next instruction stands. -/
def State.withFetchWord (s : State) (nbits w : Nat) : State := placeTableWord nbits w s

end Sys2Proof.Machine
end

