-- ==== Sys2Proof/Machine/Script.lean ====
section
/-! DEFINITION. Host scripts: the register names, the lines and pseudo-instructions with their expansions, and the text of a
script (30_encoding.md R67, R68). -/

namespace Sys2Proof.Machine

open Sys2Proof

/-- The names that a line may give a register (30_encoding.md R67, 10_state.md R16). -/
inductive RegName where
  | id
  | ctrl
  | cmd
  | status
  | format
  | width
  | height
  | block
  | srcBase
  | srcStride
  | dstBase
  | dstStride
  | tiles
  | progress
  | errAddr
deriving DecidableEq, Repr

/-- One line of a host script (30_encoding.md R67, R68). -/
inductive ScriptLine where
  | rd (reg : RegName)
  | wr (reg : RegName) (value : Word)
  | rdAt (size : AccSize) (off : BitVec 8)
  | wrAt (size : AccSize) (off : BitVec 8) (value : Word)
  | nop
  | start
  | abort
  | sreset
  | clr
  | wait
  | run
deriving DecidableEq, Repr

/-- The offset of a register (10_state.md R16). -/
def RegName.off : RegName → BitVec 8
  | .id => 0x00#8
  | .ctrl => 0x04#8
  | .cmd => 0x08#8
  | .status => 0x0C#8
  | .format => 0x10#8
  | .width => 0x14#8
  | .height => 0x18#8
  | .block => 0x1C#8
  | .srcBase => 0x20#8
  | .srcStride => 0x24#8
  | .dstBase => 0x28#8
  | .dstStride => 0x2C#8
  | .tiles => 0x30#8
  | .progress => 0x34#8
  | .errAddr => 0x38#8

/-- `rd REG` (30_encoding.md R67). -/
def readAction (reg : RegName) : Action := .transaction (readKey reg.off) 0#32

/-- `wr REG, VALUE` (30_encoding.md R67). -/
def writeAction (reg : RegName) (value : Word) : Action := .transaction (writeKey reg.off) value

/-- The actions that a line stands for (30_encoding.md R67, R68). -/
def ScriptLine.actions : ScriptLine → List Action
  | .rd reg => [readAction reg]
  | .wr reg value => [writeAction reg value]
  | .rdAt size off => [.transaction (makeKey size false off) 0#32]
  | .wrAt size off value => [.transaction (makeKey size true off) value]
  | .nop => [writeAction .cmd 0x0#32]
  | .start => [writeAction .cmd 0x1#32]
  | .abort => [writeAction .cmd 0x2#32]
  | .sreset => [writeAction .cmd 0x3#32]
  | .clr => [writeAction .status 0xE#32]
  | .wait => [.wait]
  | .run => [writeAction .cmd 0x1#32, .wait]

/-- The actions of a script, in order. -/
def assemble (lines : List ScriptLine) : List Action := lines.flatMap ScriptLine.actions

/-! ## Text -/

/-- A word of a line, or the comma between two operands. -/
abbrev Token := List Char

/-- The tokens of a line before its comment; `;` starts a comment (30_encoding.md R67). `word` holds the characters of the
word being read, the last one first. -/
def tokens (chars : List Char) (word : List Char) : List Token :=
  let flush := if word.isEmpty then [] else [word.reverse]
  match chars with
  | [] => flush
  | c :: rest =>
    if c = ';' then flush
    else if c = ',' then flush ++ [','] :: tokens rest []
    else if c = ' ' ∨ c = '\t' ∨ c = '\r' then flush ++ tokens rest []
    else tokens rest (c :: word)

/-- The value of a digit below a base of at most 16. -/
def digitValue (base : Nat) (c : Char) : Option Nat :=
  let n := c.toNat
  let v :=
    if 48 ≤ n ∧ n ≤ 57 then n - 48
    else if 65 ≤ n ∧ n ≤ 70 then n - 55
    else if 97 ≤ n ∧ n ≤ 102 then n - 87
    else 16
  if v < base then some v else none

/-- The number that digits spell, after the digits read so far. -/
def digitsValue (base sofar : Nat) (digits : List Char) : Option Nat :=
  match digits with
  | [] => some sofar
  | c :: rest =>
    match digitValue base c with
    | some d => digitsValue base (base * sofar + d) rest
    | none => none

/-- A number of one digit or more. -/
def numeral (base : Nat) (digits : List Char) : Option Nat := if digits.isEmpty then none else digitsValue base 0 digits

/-- A literal without a sign: decimal, or hexadecimal after `0x` (30_encoding.md R67). -/
def unsignedLiteral (t : Token) : Option Nat :=
  match t with
  | '0' :: 'x' :: digits => numeral 16 digits
  | digits => numeral 10 digits

/-- VALUE: decimal in -2^31..2^32-1 or hexadecimal up to 0xFFFFFFFF; a negative one is its 32-bit two's complement
(30_encoding.md R67). -/
def valueLiteral (t : Token) : Option Word :=
  match t with
  | '-' :: digits =>
    match numeral 10 digits with
    | some n => if n ≤ 2 ^ 31 then some (BitVec.ofInt 32 (-(n : Int))) else none
    | none => none
  | other =>
    match unsignedLiteral other with
    | some n => if n < 2 ^ 32 then some (BitVec.ofNat 32 n) else none
    | none => none

/-- OFF, a number 0..255 (30_encoding.md R67). -/
def offLiteral (t : Token) : Option (BitVec 8) :=
  match unsignedLiteral t with
  | some n => if n < 256 then some (BitVec.ofNat 8 n) else none
  | none => none

/-- The registers by the names of 10_state.md R16. -/
def regNames : List (String × RegName) :=
  [("ID", .id), ("CTRL", .ctrl), ("CMD", .cmd), ("STATUS", .status), ("FORMAT", .format), ("WIDTH", .width),
   ("HEIGHT", .height), ("BLOCK", .block), ("SRC_BASE", .srcBase), ("SRC_STRIDE", .srcStride), ("DST_BASE", .dstBase),
   ("DST_STRIDE", .dstStride), ("TILES", .tiles), ("PROGRESS", .progress), ("ERR_ADDR", .errAddr)]

/-- The register of a name. -/
def regLiteral (t : Token) : Option RegName := (regNames.find? fun p => p.1.toList == t).map Prod.snd

/-- The lines that are one word (30_encoding.md R68). -/
def plainLines : List (String × ScriptLine) :=
  [("nop", .nop), ("start", .start), ("abort", .abort), ("sreset", .sreset), ("clr", .clr), ("wait", .wait), ("run", .run)]

/-- The size that the ending of `rd` or `wr` names (30_encoding.md R67). -/
def sizeSuffix (t : Token) : Option AccSize :=
  if t = ".w".toList then some .word
  else if t = ".h".toList then some .half
  else if t = ".b".toList then some .byte
  else none

/-- A line from its tokens; none where it has no form of 30_encoding.md R67 or R68. -/
def lineOfTokens (ts : List Token) : Option ScriptLine :=
  match ts with
  | [t] => (plainLines.find? fun p => p.1.toList == t).map Prod.snd
  | ['r' :: 'd' :: [], reg] => (regLiteral reg).map .rd
  | ['w' :: 'r' :: [], reg, [','], value] =>
    match regLiteral reg, valueLiteral value with
    | some r, some v => some (.wr r v)
    | _, _ => none
  | ['r' :: 'd' :: suffix, off] =>
    match sizeSuffix suffix, offLiteral off with
    | some size, some o => some (.rdAt size o)
    | _, _ => none
  | ['w' :: 'r' :: suffix, off, [','], value] =>
    match sizeSuffix suffix, offLiteral off, valueLiteral value with
    | some size, some o, some v => some (.wrAt size o v)
    | _, _, _ => none
  | _ => none

/-- The line that a text without line breaks spells; `some none` where it holds a comment or nothing. -/
def parseLine (text : List Char) : Option (Option ScriptLine) :=
  match tokens text [] with
  | [] => some none
  | ts => (lineOfTokens ts).map some

/-- The lines of a text that has line breaks; `line` holds the characters of the line being read, the last one first. -/
def splitLines (text line : List Char) : List (List Char) :=
  match text with
  | [] => [line.reverse]
  | c :: rest => if c = '\n' then line.reverse :: splitLines rest [] else splitLines rest (c :: line)

/-- The lines of a script, without the empty ones; none where one of them is no line. -/
def parseLines (texts : List (List Char)) : Option (List ScriptLine) :=
  match texts with
  | [] => some []
  | t :: rest =>
    match parseLine t, parseLines rest with
    | some (some l), some ls => some (l :: ls)
    | some none, some ls => some ls
    | _, _ => none

/-- The script that a text spells (30_encoding.md R67). -/
def parseScript (text : String) : Option (List ScriptLine) := parseLines (splitLines text.toList [])

/-- A state with a script still to run, after the actions already pending (log 1). -/
def loadScript (lines : List ScriptLine) (s : State) : State := { s with inputs := s.inputs ++ assemble lines }

end Sys2Proof.Machine
end

