-- ==== Sys2Proof/Safety.lean ====
section
/-! DEFINITION. What counts as a good state and a good run, in the terms that the statements use: the invariants of the
registers and of a running job (10_state.md R20, R24, R31, R35, R36; 41_commands.md R104), what an action leaves alone,
and the end of a run (70_reset_and_hazards.md R152). -/

namespace Sys2Proof.Machine

open Sys2Proof

/-! ## Invariants -/

/-- `ERR_CODE = 0` exactly when `ERR = 0`, and the same for WERR (10_state.md R20). -/
abbrev Regs.CodesAgree (r : Regs) : Prop := (r.errCode = .none ↔ r.err = false) ∧ (r.werrCode = .none ↔ r.werr = false)

/-- BLOCK holds 1..256 and no other value (10_state.md R24). -/
abbrev Regs.BlockLegal (r : Regs) : Prop := 1 ≤ r.block.toNat ∧ r.block.toNat ≤ 256

/-- After an error other than BUS_READ or BUS_WRITE, ERR_ADDR reads 0 (10_state.md R31). -/
abbrev Regs.ErrAddrIsBusAddr (r : Regs) : Prop :=
  r.err = true → r.errCode ≠ .busRead → r.errCode ≠ .busWrite → r.errAddr = 0#32

/-- A latch that a successful START leaves (10_state.md R34, 41_commands.md R104, R105). -/
abbrev Job.Startable (j : Job) : Prop :=
  1 ≤ j.b.toNat ∧ j.b.toNat ≤ 256 ∧ j.tx.toNat = ceilDiv j.w.toNat j.b.toNat ∧ j.ty.toNat = ceilDiv j.h.toNat j.b.toNat ∧
    startCheck Config.channels j = .none

/-- What holds while PHASE = BUSY: `BUSY = 1` implies `DONE = 0` and `ERR = 0` (10_state.md R20), the latch is one that
START checked, the cursor is in the grid and `PROGRESS = CBY * J_TX + CBX` (10_state.md R36). -/
abbrev State.Running (s : State) : Prop :=
  s.regs.done = false ∧ s.regs.err = false ∧ s.job.Startable ∧ s.cursor.cbx.toNat < s.job.tx.toNat ∧
    s.cursor.cby.toNat < s.job.ty.toNat ∧ s.regs.progress.toNat = s.cursor.cby.toNat * s.job.tx.toNat + s.cursor.cbx.toNat

/-- The machine's invariant: memory keeps its canonical form, codes agree with their flags, BLOCK is legal, ERR_ADDR is a
bus address or 0, and a running job is one that START checked. -/
abbrev State.Inv (s : State) : Prop :=
  Memory.wf s.mem = true ∧ s.regs.CodesAgree ∧ s.regs.BlockLegal ∧ s.regs.ErrAddrIsBusAddr ∧
    (s.phase = .busy → s.Running)

/-- The tiles that PROGRESS counts hold the bytes that the job writes from memory `m0`, and the job's source bytes are
still those of `m0` (42_tile_engine.md R121). -/
def State.TilesDone (m0 : Memory) (s : State) : Prop :=
  (∀ col row c, col < s.job.tx.toNat → row < s.job.ty.toNat → c < 3 →
    row * s.job.tx.toNat + col < s.regs.progress.toNat →
    Memory.read s.mem (s.job.dstAddr col row c) = jobByte m0 s.job col row c) ∧
  (∀ x y c, x < s.job.w.toNat → y < s.job.h.toNat → c < 3 →
    Memory.read s.mem (s.job.srcAddr x y c) = Memory.read m0 (s.job.srcAddr x y c))

/-- While a job runs, the newest record of an unseen job is its own, and none of its writes is visible yet (20_memory.md
R54, log 12, 31). -/
def State.RecordsJob (s : State) : Prop :=
  s.phase = .busy → ∃ r older, s.unsynced = r :: older ∧ r.job = s.job ∧ r.raced = s.raced ∧ r.visible = 0

/-! ## A job in coordinates -/

/-- The pixel `(x, y)` lies in the tile `(col, row)`, in the words of 42_tile_engine.md R109 on integers. -/
def Job.InTile (j : Job) (col row x y : Nat) : Prop :=
  col * j.b.toNat ≤ x ∧ x < min (col * j.b.toNat + j.b.toNat) j.w.toNat ∧
    row * j.b.toNat ≤ y ∧ y < min (row * j.b.toNat + j.b.toNat) j.h.toNat

/-- The sample `(x', y', c')` of a tile is read before `(x, y, c)`: by row, then by column, then by channel
(42_tile_engine.md R117). -/
def ReadBefore (x' y' c' x y c : Nat) : Prop := y' < y ∨ (y' = y ∧ (x' < x ∨ (x' = x ∧ c' < c)))

/-- The address is a destination byte of the job (20_memory.md R44). -/
def Job.Writes (j : Job) (a : Nat) : Prop :=
  ∃ col row c, col < j.tx.toNat ∧ row < j.ty.toNat ∧ c < 3 ∧ a = j.dstAddr col row c

/-! ## Registers by name -/

/-- The table of 10_state.md R16 as numbers: the offset of a named register, the instruction that reads it and the one that
writes it (30_encoding.md R63). -/
def RegName.specRow : RegName → Nat × Instr × (Word → Instr)
  | .id => (0x00, .rdId, .wrId)
  | .ctrl => (0x04, .rdCtrl, .wrCtrl)
  | .cmd => (0x08, .rdCmd, .wrCmd)
  | .status => (0x0C, .rdStatus, .wrStatus)
  | .format => (0x10, .rdFormat, .wrFormat)
  | .width => (0x14, .rdWidth, .wrWidth)
  | .height => (0x18, .rdHeight, .wrHeight)
  | .block => (0x1C, .rdBlock, .wrBlock)
  | .srcBase => (0x20, .rdSrcBase, .wrSrcBase)
  | .srcStride => (0x24, .rdSrcStride, .wrSrcStride)
  | .dstBase => (0x28, .rdDstBase, .wrDstBase)
  | .dstStride => (0x2C, .rdDstStride, .wrDstStride)
  | .tiles => (0x30, .rdTiles, .wrTiles)
  | .progress => (0x34, .rdProgress, .wrProgress)
  | .errAddr => (0x38, .rdErrAddr, .wrErrAddr)

/-! ## Frames -/

/-- Every byte of memory reads as before. -/
def SameBytes (s t : State) : Prop := ∀ a, Memory.read t.mem a = Memory.read s.mem a

/-- The engine is as before: JOB, PHASE, CURSOR and the accumulators (which are no state between tile steps, log 4). -/
def SameEngine (s t : State) : Prop := t.job = s.job ∧ t.phase = s.phase ∧ t.cursor = s.cursor ∧ t.acc = s.acc

/-- The platform and the actions to come are as before, every byte of memory included. -/
def SamePlatform (s t : State) : Prop :=
  SameBytes s t ∧ t.busGaps = s.busGaps ∧ t.hostByte = s.hostByte ∧ t.inputs = s.inputs ∧ t.raced = s.raced

/-- What a register read leaves alone: everything but the response, and but the host's view of ended jobs, which only
RD_STATUS changes (20_memory.md R54). -/
def ReadFrame (s t : State) : Prop := t.regs = s.regs ∧ SameEngine s t ∧ SamePlatform s t ∧ t.draws = s.draws

/-- What a register write leaves alone, its registers apart. -/
def WriteFrame (s t : State) : Prop :=
  SameEngine s t ∧ SamePlatform s t ∧ t.draws = s.draws ∧ t.unsynced = s.unsynced ∧ t.response = ⟨.okay, 0#32⟩

/-- The byte is none of the three that a tile's step stores to. -/
def OutsideTile (j : Job) (col row a : Nat) : Prop := ∀ c, c < 3 → a ≠ j.dstAddr col row c

/-- A read answers OKAY with a number, and leaves the rest alone. -/
def ReadAnswers (s t : State) (value : Nat) : Prop :=
  t.response.resp = .okay ∧ t.response.rdata.toNat = value ∧ ReadFrame s t

/-- When each check of START fails, in the words of 41_commands.md R104 on integers. -/
def StartFails (r : Regs) : ErrCode → Prop
  | .invalidInput => r.channels.toNat ≠ 3 ∨ r.width.toNat = 0 ∨ r.height.toNat = 0
  | .badStride =>
    r.srcStride.toNat < 3 * r.width.toNat ∨ r.dstStride.toNat < 3 * ceilDiv r.width.toNat r.block.toNat
  | .range =>
    0xFFFFFFFF < r.srcBase.toNat + (r.height.toNat - 1) * r.srcStride.toNat + 3 * r.width.toNat - 1 ∨
      0xFFFFFFFF < r.dstBase.toNat + (ceilDiv r.height.toNat r.block.toNat - 1) * r.dstStride.toNat +
        3 * ceilDiv r.width.toNat r.block.toNat - 1
  | .overlap =>
    r.srcBase.toNat ≤ r.dstBase.toNat + (ceilDiv r.height.toNat r.block.toNat - 1) * r.dstStride.toNat +
        3 * ceilDiv r.width.toNat r.block.toNat - 1 ∧
      r.dstBase.toNat ≤ r.srcBase.toNat + (r.height.toNat - 1) * r.srcStride.toNat + 3 * r.width.toNat - 1
  | .none | .busRead | .busWrite | .aborted => False

/-- The latch holds the programmed registers (10_state.md R34). -/
def LatchHolds (r : Regs) (j : Job) : Prop :=
  j.w = r.width ∧ j.h = r.height ∧ j.b = r.block ∧ j.tx.toNat = ceilDiv r.width.toNat r.block.toNat ∧
    j.ty.toNat = ceilDiv r.height.toNat r.block.toNat ∧ j.src = r.srcBase ∧ j.ss = r.srcStride ∧ j.dst = r.dstBase ∧
    j.ds = r.dstStride ∧ j.rnd = r.rnd

/-- The registers that START never writes are as before: CTRL, WERR and the configuration. -/
def SameSetup (r r' : Regs) : Prop :=
  r'.ieDone = r.ieDone ∧ r'.ieErr = r.ieErr ∧ r'.ieWerr = r.ieWerr ∧ r'.rnd = r.rnd ∧ r'.werr = r.werr ∧
    r'.werrCode = r.werrCode ∧ r'.channels = r.channels ∧ r'.width = r.width ∧ r'.height = r.height ∧
    r'.block = r.block ∧ r'.srcBase = r.srcBase ∧ r'.srcStride = r.srcStride ∧ r'.dstBase = r.dstBase ∧
    r'.dstStride = r.dstStride

/-- START fails with INVALID_INPUT (41_commands.md R104, R105). -/
def StartGivesInvalidInput (s : State) : Prop :=
  ∃ t, exec .start s = .next t ∧ t.phase = .idle ∧ t.regs.err = true ∧ t.regs.errCode = .invalidInput

/-- The value of a flag as a number. -/
def flagValue (b : Bool) : Nat := if b then 1 else 0

/-! ## Runs -/

/-- A run is over: no action is left and PHASE = IDLE (70_reset_and_hazards.md R152). -/
def State.runOver (s : State) : Bool := s.inputs.isEmpty && s.phase == .idle

/-- The next action neither resets the block nor writes into the running job's ranges (42_tile_engine.md R121). -/
def State.nextActionKeepsJob (s : State) : Prop :=
  match s.inputs with
  | .hardReset :: _ => False
  | .hostWrite addr _ :: _ => s.job.inRanges addr.toNat = false
  | _ => True

end Sys2Proof.Machine
end

