-- ==== Sys2Proof/Certificates/Slice0/Obligations.lean ====
section
/-! DEFINITION. The statements about the machine. Each docstring names the rule of spec/ that it formalises, or says that
it is derived. -/

open Sys2Proof Sys2Proof.Machine

/-! ## Encoding -/

/-- Decoding the encoding of a well-formed instruction gives it back, with every operand at every value. Derived from
30_encoding.md R63, R64. -/
def Obligations.EncodedInstructionsDecodeBack : Prop := ∀ i : Instr, i.wf = true → decode (encode i) = i

/-- 30_encoding.md R63: exactly one row of the table covers a key, and the decoder gives that row's instruction. -/
def Obligations.EveryKeyMatchesExactlyItsRow : Prop :=
  ∀ (key : Key) (data : Word),
    (txRows.filter fun row => row.covers key).map OpcodeRow.mnemonic = [(decode (.tx key data)).mnemonic]

/-- 30_encoding.md R64: exactly one row of the table covers a command word, and the decoder gives that row's command. -/
def Obligations.EveryCommandWordMatchesExactlyItsRow : Prop :=
  ∀ word : Word, (cmdRows.filter fun row => row.covers word).map OpcodeRow.mnemonic = [(decode (.cmd word)).mnemonic]

/-- What is decoded is well-formed and encodes back to the same key, and to the same command word. DATA comes back where a
legal write carries it; the DATA of a read and of an illegal access is dropped, which is the model's reading (log 17).
Derived from 30_encoding.md R59, R61, R63, R64 and 40_register_access.md R102. -/
def Obligations.DecodingKeepsKeysCommandsAndWrittenData : Prop :=
  (∀ e : Encoding, (decode e).wf = true) ∧
    (∀ (key : Key) (data : Word), encode (decode (.tx key data)) =
      .tx key (if keySize key = .word ∧ alignedOff (keyOff key) = true ∧ keyWr key = true then data else 0#32)) ∧
    ∀ word : Word, encode (decode (.cmd word)) = .cmd word

/-- Some words that the spec writes out (30_encoding.md R63, R64; 95_test_vectors.md L2-4) decode to their instructions. -/
def Obligations.SpecWordsDecode : Prop :=
  decodeTableWord 16 0x40C = some .rdStatus ∧ decodeTableWord 16 0x538 = some (.wrErrAddr 0#32) ∧
    decodeTableWord 16 0x43C = some (.rdRsvd 0x3C#8) ∧ decodeTableWord 16 0x308 = some (.accIllegal .half true 0x08#8) ∧
    decodeTableWord 32 0x1 = some .start ∧ decodeTableWord 32 0x11 = some (.cmdReserved 0x11#32) ∧
    decodeTableWord 48 0x000000020508 = some (.wrCmd 2#32)

/-! ## Steps -/

/-- A step runs the transaction that is pending: it takes the transaction off the list, decodes it and performs the
instruction, and around that only notes where a job began or ended, which is nothing where the phase stays. Derived from
20_memory.md R52, R54, 30_encoding.md R63. -/
def Obligations.StepRunsPendingTransaction : Prop :=
  ∀ (s t : State) (i : Instr) (key : Key) (data : Word) (rest : List Action),
    s.inputs = .transaction key data :: rest → decode (.tx key data) = i → i.wf = true →
    exec i { s with inputs := rest } = .next t →
    step s = .next (settle { s with inputs := rest } t) ∧ (t.phase = s.phase → step s = .next t)

/-- The instruction that the decoder reads from a row of bits is the one that the next step runs, once the bits are placed:
for a command word too, which reaches the block as the DATA of a CMD write. Derived from 30_encoding.md R61, R64 and
40_register_access.md R75; where the bits are placed is the model's choice (log 1, 28). -/
def Obligations.PlacedTableWordRuns : Prop :=
  ∀ (s : State) (nbits w : Nat) (i : Instr), decodeTableWord nbits w = some i →
    step (s.withFetchWord nbits w) = settleOutcome s (exec i s)

/-- With nothing pending, an IDLE block waits and nothing changes: a run that is over stays as it is. Derived from
60_exceptions.md R141 and 70_reset_and_hazards.md R152; that it is a step which changes nothing is the model's choice
(log 14). -/
def Obligations.IdleBlockWaits : Prop := ∀ s : State, s.runOver = true → step s = .next s

/-! ## Register reads -/

/-- 40_register_access.md R70, R72, R74, R78: the keys of RD_ID, RD_CTRL, RD_CMD and RD_FORMAT, what they return as numbers,
and that a read changes nothing else. -/
def Obligations.ControlReadsReturnTheirFields : Prop :=
  ∀ (s : State) (data : Word),
    (decode (.tx 0x400#11 data) = .rdId ∧ ∃ t, exec .rdId s = .next t ∧ ReadAnswers s t 0x42520100 ∧
      t.unsynced = s.unsynced) ∧
    (decode (.tx 0x404#11 data) = .rdCtrl ∧ ∃ t, exec .rdCtrl s = .next t ∧ t.unsynced = s.unsynced ∧
      ReadAnswers s t (8 * flagValue s.regs.rnd + 4 * flagValue s.regs.ieWerr + 2 * flagValue s.regs.ieErr +
        flagValue s.regs.ieDone)) ∧
    (decode (.tx 0x408#11 data) = .rdCmd ∧ ∃ t, exec .rdCmd s = .next t ∧ ReadAnswers s t 0 ∧ t.unsynced = s.unsynced) ∧
    (decode (.tx 0x410#11 data) = .rdFormat ∧ ∃ t, exec .rdFormat s = .next t ∧ ReadAnswers s t s.regs.channels.toNat ∧
      t.unsynced = s.unsynced)

/-- RD_STATUS returns the flags and the codes in their bits and clears none of them. BUSY = 1 never stands with DONE = 1 or
ERR = 1, by the invariant. A read that returns DONE = 1 or ERR = 1 empties the list of jobs whose writes the host may not see
yet, and another read leaves it: that it serves for every ended job is the model's reading (log 12). Derived from
40_register_access.md R76 and 20_memory.md R54. -/
def Obligations.StatusReadReturnsItsFields : Prop :=
  ∀ (s : State) (data : Word), decode (.tx 0x40C#11 data) = .rdStatus ∧ ∃ t, exec .rdStatus s = .next t ∧
    ReadAnswers s t (4096 * s.regs.werrCode.bits.toNat + 256 * s.regs.errCode.bits.toNat + 16 * flagValue s.irq +
      8 * flagValue s.regs.werr + 4 * flagValue s.regs.err + 2 * flagValue s.regs.done + flagValue (s.phase == .busy)) ∧
    (s.Inv → t.response.rdata.getLsbD 0 = true →
      t.response.rdata.getLsbD 1 = false ∧ t.response.rdata.getLsbD 2 = false) ∧
    t.unsynced = if t.response.rdata.getLsbD 1 || t.response.rdata.getLsbD 2 then [] else s.unsynced

/-- 40_register_access.md R80, R82, R84, R94: the keys of RD_WIDTH, RD_HEIGHT, RD_BLOCK and RD_TILES and what they return, as
numbers. TILES is computed from the programmed registers; W = 0 gives TX = 0 and B >= W >= 1 gives TX = 1. -/
def Obligations.GeometryReadsReturnTheirFields : Prop :=
  ∀ (s : State) (data : Word),
    (decode (.tx 0x414#11 data) = .rdWidth ∧ ∃ t, exec .rdWidth s = .next t ∧ ReadAnswers s t s.regs.width.toNat ∧
      t.unsynced = s.unsynced) ∧
    (decode (.tx 0x418#11 data) = .rdHeight ∧ ∃ t, exec .rdHeight s = .next t ∧ ReadAnswers s t s.regs.height.toNat ∧
      t.unsynced = s.unsynced) ∧
    (decode (.tx 0x41C#11 data) = .rdBlock ∧ ∃ t, exec .rdBlock s = .next t ∧ ReadAnswers s t s.regs.block.toNat ∧
      t.unsynced = s.unsynced ∧ (s.Inv → 1 ≤ t.response.rdata.toNat ∧ t.response.rdata.toNat ≤ 256)) ∧
    (decode (.tx 0x430#11 data) = .rdTiles ∧ ∃ t, exec .rdTiles s = .next t ∧ t.unsynced = s.unsynced ∧
      ReadAnswers s t (65536 * ((s.regs.height.toNat + s.regs.block.toNat - 1) / s.regs.block.toNat) +
        (s.regs.width.toNat + s.regs.block.toNat - 1) / s.regs.block.toNat) ∧
      (s.regs.width.toNat = 0 → t.response.rdata.toNat % 65536 = 0) ∧
      (1 ≤ s.regs.width.toNat → s.regs.width.toNat ≤ s.regs.block.toNat → t.response.rdata.toNat % 65536 = 1))

/-- 40_register_access.md R86, R88, R90, R92: the keys of RD_SRC_BASE, RD_SRC_STRIDE, RD_DST_BASE and RD_DST_STRIDE, and that
they return their registers. -/
def Obligations.AddressReadsReturnTheirRegisters : Prop :=
  ∀ (s : State) (data : Word),
    (decode (.tx 0x420#11 data) = .rdSrcBase ∧ ∃ t, exec .rdSrcBase s = .next t ∧
      ReadAnswers s t s.regs.srcBase.toNat ∧ t.unsynced = s.unsynced) ∧
    (decode (.tx 0x424#11 data) = .rdSrcStride ∧ ∃ t, exec .rdSrcStride s = .next t ∧
      ReadAnswers s t s.regs.srcStride.toNat ∧ t.unsynced = s.unsynced) ∧
    (decode (.tx 0x428#11 data) = .rdDstBase ∧ ∃ t, exec .rdDstBase s = .next t ∧
      ReadAnswers s t s.regs.dstBase.toNat ∧ t.unsynced = s.unsynced) ∧
    (decode (.tx 0x42C#11 data) = .rdDstStride ∧ ∃ t, exec .rdDstStride s = .next t ∧
      ReadAnswers s t s.regs.dstStride.toNat ∧ t.unsynced = s.unsynced)

/-- RD_PROGRESS and RD_ERR_ADDR return their registers: PROGRESS reflects the cursor while a job runs, and ERR_ADDR is 0
after every error but a bus error. Derived from 40_register_access.md R96, R98 and 10_state.md R31, R36. -/
def Obligations.ResultReadsReturnTheirRegisters : Prop :=
  ∀ (s : State) (data : Word),
    (decode (.tx 0x434#11 data) = .rdProgress ∧ ∃ t, exec .rdProgress s = .next t ∧
      ReadAnswers s t s.regs.progress.toNat ∧ t.unsynced = s.unsynced ∧
      (s.Inv → s.phase = .busy →
        t.response.rdata.toNat = s.cursor.cby.toNat * s.job.tx.toNat + s.cursor.cbx.toNat)) ∧
    (decode (.tx 0x438#11 data) = .rdErrAddr ∧ ∃ t, exec .rdErrAddr s = .next t ∧
      ReadAnswers s t s.regs.errAddr.toNat ∧ t.unsynced = s.unsynced ∧
      (s.Inv → s.regs.err = true → s.regs.errCode ≠ .busRead → s.regs.errCode ≠ .busWrite →
        t.response.rdata = 0#32))

/-! ## Register writes -/

/-- 40_register_access.md R73, R79, R81, R83: WR_CTRL, WR_FORMAT, WR_WIDTH and WR_HEIGHT store the low bits of DATA and no
other register; irq follows the new enables and TILES the new size at once. A channel count other than 3, a width of 0 and
a height of 0 are stored, and make a START on an IDLE block fail with INVALID_INPUT. -/
def Obligations.FieldWritesStoreLowBits : Prop :=
  ∀ (s : State) (data : Word),
    (decode (.tx 0x504#11 data) = .wrCtrl data ∧ ∃ t, exec (.wrCtrl data) s = .next t ∧ WriteFrame s t ∧
      flagValue t.regs.ieDone + 2 * flagValue t.regs.ieErr + 4 * flagValue t.regs.ieWerr + 8 * flagValue t.regs.rnd =
        data.toNat % 16 ∧
      t.irq = ((t.regs.ieDone && s.regs.done) || (t.regs.ieErr && s.regs.err) || (t.regs.ieWerr && s.regs.werr)) ∧
      { t.regs with ieDone := s.regs.ieDone, ieErr := s.regs.ieErr, ieWerr := s.regs.ieWerr, rnd := s.regs.rnd } = s.regs) ∧
    (decode (.tx 0x510#11 data) = .wrFormat data ∧ ∃ t, exec (.wrFormat data) s = .next t ∧ WriteFrame s t ∧
      t.regs.channels.toNat = data.toNat % 256 ∧ { t.regs with channels := s.regs.channels } = s.regs ∧
      (data.toNat % 256 ≠ 3 → s.phase = .idle → StartGivesInvalidInput t)) ∧
    (decode (.tx 0x514#11 data) = .wrWidth data ∧ ∃ t, exec (.wrWidth data) s = .next t ∧ WriteFrame s t ∧
      t.regs.width.toNat = data.toNat % 65536 ∧ { t.regs with width := s.regs.width } = s.regs ∧
      (tilesWord t.regs).toNat % 65536 = (data.toNat % 65536 + s.regs.block.toNat - 1) / s.regs.block.toNat ∧
      (data.toNat % 65536 = 0 → s.phase = .idle → StartGivesInvalidInput t)) ∧
    (decode (.tx 0x518#11 data) = .wrHeight data ∧ ∃ t, exec (.wrHeight data) s = .next t ∧ WriteFrame s t ∧
      t.regs.height.toNat = data.toNat % 65536 ∧ { t.regs with height := s.regs.height } = s.regs ∧
      (tilesWord t.regs).toNat / 65536 = (data.toNat % 65536 + s.regs.block.toNat - 1) / s.regs.block.toNat ∧
      (data.toNat % 65536 = 0 → s.phase = .idle → StartGivesInvalidInput t))

/-- WR_SRC_BASE, WR_SRC_STRIDE, WR_DST_BASE and WR_DST_STRIDE store any word as written, in both phases, and no other
register. Derived from 40_register_access.md R87, R89, R91, R93. -/
def Obligations.AddressWritesStoreTheWord : Prop :=
  ∀ (s : State) (data : Word),
    (decode (.tx 0x520#11 data) = .wrSrcBase data ∧
      ∃ t, exec (.wrSrcBase data) s = .next t ∧ WriteFrame s t ∧ t.regs = { s.regs with srcBase := data }) ∧
    (decode (.tx 0x524#11 data) = .wrSrcStride data ∧
      ∃ t, exec (.wrSrcStride data) s = .next t ∧ WriteFrame s t ∧ t.regs = { s.regs with srcStride := data }) ∧
    (decode (.tx 0x528#11 data) = .wrDstBase data ∧
      ∃ t, exec (.wrDstBase data) s = .next t ∧ WriteFrame s t ∧ t.regs = { s.regs with dstBase := data }) ∧
    (decode (.tx 0x52C#11 data) = .wrDstStride data ∧
      ∃ t, exec (.wrDstStride data) s = .next t ∧ WriteFrame s t ∧ t.regs = { s.regs with dstStride := data })

/-- 40_register_access.md R85: WR_BLOCK stores the signed DATA clamped into 1..256, whatever BLOCK held before, and TILES
follows at once. -/
def Obligations.BlockWriteClamps : Prop :=
  ∀ (s : State) (data : Word), decode (.tx 0x51C#11 data) = .wrBlock data ∧
    ∃ t, exec (.wrBlock data) s = .next t ∧ WriteFrame s t ∧
      (t.regs.block.toNat : Int) = min (max data.toInt 1) 256 ∧ t.regs.BlockLegal ∧
      { t.regs with block := s.regs.block } = s.regs ∧
      (tilesWord t.regs).toNat % 65536 = (s.regs.width.toNat + t.regs.block.toNat - 1) / t.regs.block.toNat ∧
      (tilesWord t.regs).toNat / 65536 = (s.regs.height.toNat + t.regs.block.toNat - 1) / t.regs.block.toNat

/-- 40_register_access.md R77: WR_STATUS clears DONE, ERR and WERR by the ones of DATA[3:1], a code with its flag, and leaves
every other register, BUSY, PROGRESS and ERR_ADDR among them; irq follows. While BUSY it can clear WERR alone, by the
invariant. -/
def Obligations.StatusWriteClearsByMask : Prop :=
  ∀ (s : State) (data : Word), decode (.tx 0x50C#11 data) = .wrStatus data ∧
    ∃ t, exec (.wrStatus data) s = .next t ∧ WriteFrame s t ∧
      t.regs.done = (s.regs.done && !data.getLsbD 1) ∧
      t.regs.err = (s.regs.err && !data.getLsbD 2) ∧
      t.regs.errCode = (if data.getLsbD 2 then .none else s.regs.errCode) ∧
      t.regs.werr = (s.regs.werr && !data.getLsbD 3) ∧
      t.regs.werrCode = (if data.getLsbD 3 then .none else s.regs.werrCode) ∧
      { t.regs with
        done := s.regs.done, err := s.regs.err, errCode := s.regs.errCode, werr := s.regs.werr,
        werrCode := s.regs.werrCode } = s.regs ∧
      t.irq = ((s.regs.ieDone && t.regs.done) || (s.regs.ieErr && t.regs.err) || (s.regs.ieWerr && t.regs.werr)) ∧
      (s.Inv → s.phase = .busy →
        t.regs.done = s.regs.done ∧ t.regs.err = s.regs.err ∧ t.regs.errCode = s.regs.errCode)

/-- 40_register_access.md R71, R95, R97, R99, R100, R101: writes of read-only registers and of reserved offsets are ignored
with OKAY, and a read of a reserved offset returns 0. -/
def Obligations.ReadOnlyAndReservedAccessesDoNothing : Prop :=
  ∀ (s : State) (data : Word),
    (decode (.tx 0x500#11 data) = .wrId data ∧ exec (.wrId data) s = .next { s with response := ⟨.okay, 0#32⟩ }) ∧
    (decode (.tx 0x530#11 data) = .wrTiles data ∧ exec (.wrTiles data) s = .next { s with response := ⟨.okay, 0#32⟩ }) ∧
    (decode (.tx 0x534#11 data) = .wrProgress data ∧
      exec (.wrProgress data) s = .next { s with response := ⟨.okay, 0#32⟩ }) ∧
    (decode (.tx 0x538#11 data) = .wrErrAddr data ∧
      exec (.wrErrAddr data) s = .next { s with response := ⟨.okay, 0#32⟩ }) ∧
    ∀ off : BitVec 8, 0x3C ≤ off.toNat → off.toNat % 4 = 0 →
      decode (.tx (0b100#3 ++ off) data) = .rdRsvd off ∧ decode (.tx (0b101#3 ++ off) data) = .wrRsvd off data ∧
      exec (.rdRsvd off) s = .next { s with response := ⟨.okay, 0#32⟩ } ∧
      exec (.wrRsvd off data) s = .next { s with response := ⟨.okay, 0#32⟩ }

/-- 30_encoding.md R60 with 40_register_access.md R102: a transaction answers OKAY exactly where it is an aligned word; an
illegal one is ACC_ILLEGAL, answers SLVERR with RDATA 0 and changes no state. -/
def Obligations.IllegalTransactionsAnswerSlverr : Prop :=
  (∀ (s : State) (key : Key) (data : Word), ∃ t, exec (decode (.tx key data)) s = .next t ∧
    (t.response.resp = .okay ↔ (key.toNat / 512 = 2 ∧ key.toNat % 4 = 0)) ∧
    (¬ (key.toNat / 512 = 2 ∧ key.toNat % 4 = 0) →
      (decode (.tx key data)).mnemonic = "ACC_ILLEGAL" ∧ t = { s with response := ⟨.slverr, 0#32⟩ })) ∧
  ∀ (s : State) (size : AccSize) (wr : Bool) (off : BitVec 8), legalAccess size off = false →
    exec (.accIllegal size wr off) s = .next { s with response := ⟨.slverr, 0#32⟩ }

/-! ## Commands -/

/-- 40_register_access.md R75: a write to CMD performs the command of its word, whichever it is, and completes with OKAY. -/
def Obligations.CmdWritePerformsTheCommand : Prop :=
  ∀ (s : State) (word : Word), decode (.tx 0x508#11 word) = .wrCmd word ∧
    ∃ t, exec (.wrCmd word) s = .next t ∧ exec (decode (.cmd word)) s = .next t ∧ t.response = ⟨.okay, 0#32⟩

/-- 41_commands.md R103: NOP, the word 0, changes nothing, in both phases. -/
def Obligations.NopChangesNothing : Prop :=
  decode (.cmd 0#32) = .nop ∧ ∀ s : State, exec .nop s = .next { s with response := ⟨.okay, 0#32⟩ }

/-- 41_commands.md R108: a reserved command word sets WERR, and WERR_CODE to ILLEGAL_CMD only where WERR was 0; nothing else
changes, and a running job goes on. The word 0x11 is reserved. -/
def Obligations.ReservedCommandRaisesWErr : Prop :=
  (∀ (s : State) (word : Word), 4 ≤ word.toNat → decode (.cmd word) = .cmdReserved word ∧
    ∃ t, exec (.cmdReserved word) s = .next t ∧ WriteFrame s t ∧
      t.regs.werr = true ∧ t.regs.werrCode = (if s.regs.werr then s.regs.werrCode else .illegalCmd) ∧
      { t.regs with werr := s.regs.werr, werrCode := s.regs.werrCode } = s.regs) ∧
  decode (.cmd 0x11#32) = .cmdReserved 0x11#32

/-- START, the word 1, on an IDLE block is refused with the code of the first check that fails, with no memory access; DONE,
PROGRESS and ERR_ADDR are cleared, WERR and the configuration stay, the latch is written. Derived from 41_commands.md R104,
R105. -/
def Obligations.StartIsRefusedByTheFirstFailingCheck : Prop :=
  decode (.cmd 1#32) = .start ∧
  ∀ (s : State) (code : ErrCode), s.phase = .idle → StartFails s.regs code →
    (∀ earlier : ErrCode, earlier.bits.toNat < code.bits.toNat → ¬ StartFails s.regs earlier) →
    ∃ t, exec .start s = .next t ∧ t.response = ⟨.okay, 0#32⟩ ∧ t.phase = .idle ∧ t.regs.err = true ∧
      t.regs.errCode = code ∧ t.regs.done = false ∧ t.regs.progress = 0#32 ∧ t.regs.errAddr = 0#32 ∧
      SameSetup s.regs t.regs ∧ LatchHolds s.regs t.job ∧ t.cursor = s.cursor ∧ t.acc = s.acc ∧ SamePlatform s t ∧
      t.unsynced = s.unsynced ∧ t.draws = s.draws

/-- START on an IDLE block whose configuration passes every check begins the job at tile (0, 0): BUSY, DONE and ERR and their
code cleared, PROGRESS and ERR_ADDR 0, the configuration latched; WERR and the configuration stay, and memory is not
touched. Derived from 41_commands.md R105. -/
def Obligations.StartBeginsTheJob : Prop :=
  ∀ s : State, s.phase = .idle → (∀ code : ErrCode, ¬ StartFails s.regs code) →
    ∃ t, exec .start s = .next t ∧ t.response = ⟨.okay, 0#32⟩ ∧ t.phase = .busy ∧ t.regs.err = false ∧
      t.regs.errCode = .none ∧ t.regs.done = false ∧ t.regs.progress = 0#32 ∧ t.regs.errAddr = 0#32 ∧
      SameSetup s.regs t.regs ∧ LatchHolds s.regs t.job ∧ t.cursor = ⟨0#16, 0#16⟩ ∧ t.acc = s.acc ∧ SamePlatform s t ∧
      t.unsynced = s.unsynced ∧ t.draws = s.draws

/-- START while BUSY starts nothing. It sets WERR, with START_WHILE_BUSY where WERR was 0, and the running job, its latch and
every other register stay. Derived from 70_reset_and_hazards.md R148 and 41_commands.md R105. -/
def Obligations.StartWhileBusyIsRefused : Prop :=
  ∀ s : State, s.phase = .busy → ∃ t, exec .start s = .next t ∧ WriteFrame s t ∧ t.regs.werr = true ∧
    t.regs.werrCode = (if s.regs.werr then s.regs.werrCode else .startWhileBusy) ∧
    { t.regs with werr := s.regs.werr, werrCode := s.regs.werrCode } = s.regs

/-- ABORT, the word 2, ends a running job with ERR_CODE ABORTED and ERR_ADDR 0, PROGRESS and memory as they are; on an IDLE
block it does nothing. Derived from 41_commands.md R106. -/
def Obligations.AbortEndsTheJob : Prop :=
  decode (.cmd 2#32) = .abort ∧ ∀ s : State,
    (s.phase = .busy → ∃ t, exec .abort s = .next t ∧ t.phase = .idle ∧
      t.regs = { s.regs with err := true, errCode := .aborted, errAddr := 0#32 } ∧ t.job = s.job ∧ t.cursor = s.cursor ∧
      t.acc = s.acc ∧ SamePlatform s t ∧ t.unsynced = s.unsynced ∧ t.draws = s.draws ∧ t.response = ⟨.okay, 0#32⟩) ∧
    (s.phase = .idle → exec .abort s = .next { s with response := ⟨.okay, 0#32⟩ })

/-- The two orders of ABORT and the last tile of a job: the tile first ends the job with DONE and ABORT does nothing; ABORT
first ends it with ABORTED and one tile short. That the engine's action is then a step on an IDLE block, which changes
nothing, is the model's choice (log 14). Derived from 60_exceptions.md R134. -/
def Obligations.AbortAndTheLastTileComeInBothOrders : Prop :=
  ∀ (s : State) (rest : List Action), s.Inv → s.phase = .busy → s.busGaps = [] →
    s.cursor.cbx.toNat + 1 = s.job.tx.toNat → s.cursor.cby.toNat + 1 = s.job.ty.toNat →
    (s.inputs = .engine :: .transaction 0x508#11 2#32 :: rest →
      ∃ t u, step s = .next t ∧ step t = .next u ∧ u.phase = .idle ∧ u.regs.done = true ∧ u.regs.err = false ∧
        u.regs.progress.toNat = s.job.tx.toNat * s.job.ty.toNat ∧ u.inputs = rest) ∧
    (s.inputs = .transaction 0x508#11 2#32 :: .engine :: rest →
      ∃ t u, step s = .next t ∧ step t = .next u ∧ u.phase = .idle ∧ u.regs.done = false ∧ u.regs.err = true ∧
        u.regs.errCode = .aborted ∧ u.regs.progress.toNat = s.job.tx.toNat * s.job.ty.toNat - 1 ∧ u.inputs = rest)

/-- SOFT_RESET, the word 3, puts every register at its reset value and the engine in IDLE, in both phases, and leaves
platform memory. Nothing is said of JOB and CURSOR, which are unspecified. That the accumulators stay (log 4), and the host's
byte, the pending actions and the records of unseen jobs (log 27), is the model's choice. Derived from 41_commands.md R107
and 10_state.md R40. -/
def Obligations.SoftResetRestoresTheRegisters : Prop :=
  decode (.cmd 3#32) = .softReset ∧
  ∀ s : State, ∃ t, exec .softReset s = .next t ∧ t.phase = .idle ∧ t.irq = false ∧ statusWord t.phase t.regs = 0#32 ∧
    ctrlWord t.regs = 0#32 ∧ t.regs.channels.toNat = 3 ∧ t.regs.width.toNat = 0 ∧ t.regs.height.toNat = 0 ∧
    t.regs.block.toNat = 1 ∧ t.regs.srcBase = 0#32 ∧ t.regs.srcStride = 0#32 ∧ t.regs.dstBase = 0#32 ∧
    t.regs.dstStride = 0#32 ∧ tilesWord t.regs = 0#32 ∧ t.regs.progress = 0#32 ∧ t.regs.errAddr = 0#32 ∧
    t.acc = s.acc ∧ SamePlatform s t ∧ t.unsynced = s.unsynced ∧ t.response = ⟨.okay, 0#32⟩

/-- No transaction or command reads or writes platform memory: every byte stays, and with any other memory the instruction does
the same and leaves that one. Every one completes with a response, SLVERR for ACC_ILLEGAL alone. Derived from 10_state.md R38 and 30_encoding.md R60. -/
def Obligations.TransactionsNeverTouchMemory : Prop :=
  ∀ (i : Instr) (s : State), ∃ t, exec i s = .next t ∧ SamePlatform s t ∧
    (∀ m : Memory, exec i { s with mem := m } = .next { t with mem := m }) ∧
    (t.response.resp = .slverr ↔ i.mnemonic = "ACC_ILLEGAL")

/-- While BUSY only ABORT and SOFT_RESET, also as words of a CMD write, end the job, and every other transaction leaves the
latch, the cursor and PROGRESS: configuration writes do not reach the running job. Derived from 10_state.md R20 (what clears
BUSY), R34, 41_commands.md R106, R107 and 70_reset_and_hazards.md R148. -/
def Obligations.OnlyAbortAndResetEndARunningJob : Prop :=
  ∀ (i : Instr) (s : State), s.phase = .busy → ∃ t, exec i s = .next t ∧
    (t.phase = .idle ↔ i = .abort ∨ i = .softReset ∨ i = .wrCmd 2#32 ∨ i = .wrCmd 3#32) ∧
    (t.phase = .busy → t.job = s.job ∧ t.cursor = s.cursor ∧ t.acc = s.acc ∧ t.regs.progress = s.regs.progress ∧
      (t.regs.done = true → s.regs.done = true) ∧ (t.regs.err = true → s.regs.err = true))

/-! ## Errors and the interrupt -/

/-- `raise Error` ends the job: IDLE, BUSY 0, ERR with its code and ERR_ADDR, and irq is the function of the new flags.
PROGRESS, JOB, CURSOR and memory stay. Derived from 60_exceptions.md R129, whose last sentences, on the order of accesses,
are `BusErrorEndsTheJob`. -/
def Obligations.ErrorEntryRecordsTheError : Prop :=
  ∀ (s : State) (code : ErrCode) (addr : Word),
    (raiseError code addr s).phase = .idle ∧
    (statusWord (raiseError code addr s).phase (raiseError code addr s).regs).getLsbD 0 = false ∧
    (raiseError code addr s).regs = { s.regs with err := true, errCode := code, errAddr := addr } ∧
    (raiseError code addr s).irq =
      ((s.regs.ieDone && s.regs.done) || s.regs.ieErr || (s.regs.ieWerr && s.regs.werr)) ∧
    (raiseError code addr s).job = s.job ∧ (raiseError code addr s).cursor = s.cursor ∧
    SamePlatform s (raiseError code addr s)

/-- 60_exceptions.md R130: `raise WErr` sets WERR and keeps the first code; irq is the function of the new flags, and nothing
else changes. -/
def Obligations.WErrEntryKeepsTheFirstCode : Prop :=
  ∀ (s : State) (code : WErrCode),
    (raiseWErr code s).regs = { s.regs with werr := true, werrCode := if s.regs.werr then s.regs.werrCode else code } ∧
    (raiseWErr code s).irq = ((s.regs.ieDone && s.regs.done) || (s.regs.ieErr && s.regs.err) || s.regs.ieWerr) ∧
    SameEngine s (raiseWErr code s) ∧ SamePlatform s (raiseWErr code s)

/-- 60_exceptions.md R132: irq is the OR of DONE, ERR and WERR, each with its enable; STATUS.IRQ is irq, and it is 0 after
reset. -/
def Obligations.IrqIsTheEnabledFlags : Prop :=
  (∀ s : State, (s.irq = true ↔ (s.regs.ieDone = true ∧ s.regs.done = true) ∨ (s.regs.ieErr = true ∧ s.regs.err = true) ∨
      (s.regs.ieWerr = true ∧ s.regs.werr = true)) ∧
    (statusWord s.phase s.regs).getLsbD 4 = s.irq) ∧ State.reset.irq = false

/-! ## The arithmetic of a tile -/

/-- 42_tile_engine.md R114: RoundMean is an integer nearest to S / n; a tie goes up, or to the even one under RND = 1; and
under RND = 0 it is (2S + n) / (2n). -/
def Obligations.RoundMeanIsNearest : Prop :=
  ∀ (sum n : Nat) (rnd : Bool), 1 ≤ n → sum ≤ 255 * n →
    2 * sum ≤ 2 * (roundMean sum n rnd * n) + n ∧ 2 * (roundMean sum n rnd * n) ≤ 2 * sum + n ∧
    (2 * (sum % n) = n → roundMean sum n rnd = if rnd then sum / n + sum / n % 2 else sum / n + 1) ∧
    (2 * (sum % n) = n → rnd = true → roundMean sum n rnd % 2 = 0) ∧
    (rnd = false → roundMean sum n rnd = (2 * sum + n) / (2 * n))

/-- 42_tile_engine.md R115: the rounded mean fits a sample, and it lies between the least and the greatest sample; one pixel
gives itself and equal samples give their value. -/
def Obligations.RoundMeanStaysAmongTheSamples : Prop :=
  (∀ (sum n : Nat) (rnd : Bool), 1 ≤ n → sum ≤ 255 * n → roundMean sum n rnd ≤ 255) ∧
    (∀ (samples : List Nat) (least greatest : Nat) (rnd : Bool), samples ≠ [] →
      (∀ v ∈ samples, least ≤ v ∧ v ≤ greatest) →
      least ≤ roundMean samples.sum samples.length rnd ∧ roundMean samples.sum samples.length rnd ≤ greatest) ∧
    (∀ (sum : Nat) (rnd : Bool), roundMean sum 1 rnd = sum) ∧
    ∀ (v n : Nat) (rnd : Bool), 1 ≤ n → roundMean (n * v) n rnd = v

/-- 42_tile_engine.md R110: every pixel of the image lies in exactly one tile, `(x / B, y / B)`; no tile is empty, none
reaches outside the image or holds more than B * B pixels; B >= max(W, H) gives one tile of W * H pixels. -/
def Obligations.TilesPartitionTheImage : Prop :=
  ∀ j : Job, j.Startable →
    (∀ x y, x < j.w.toNat → y < j.h.toNat → x / j.b.toNat < j.tx.toNat ∧ y / j.b.toNat < j.ty.toNat ∧
      ∀ col row, (x, y) ∈ j.tilePixels col row ↔ col = x / j.b.toNat ∧ row = y / j.b.toNat) ∧
    (∀ col row, col < j.tx.toNat → row < j.ty.toNat →
      1 ≤ j.tileCount col row ∧ j.tileCount col row ≤ j.b.toNat * j.b.toNat ∧
      (j.tilePixels col row).length = j.tileCount col row ∧
      ∀ p ∈ j.tilePixels col row, p.1 < j.w.toNat ∧ p.2 < j.h.toNat) ∧
    (j.w.toNat ≤ j.b.toNat → j.h.toNat ≤ j.b.toNat →
      j.tx.toNat = 1 ∧ j.ty.toNat = 1 ∧ j.tileCount 0 0 = j.w.toNat * j.h.toNat)

/-- 42_tile_engine.md R112: the accumulators never overflow: after the reads of a tile of at most 256 x 256 pixels, each
sum is the exact sum of its channel and CNT the exact count. -/
def Obligations.AccumulatorsNeverOverflow : Prop :=
  ∀ (m : Memory) (gaps : List BusGap) (j : Job) (col row : Nat) (acc : Accumulators), j.b.toNat ≤ 256 →
    readTile m gaps (j.tileReads col row) (Accumulators.start (j.tileCount col row)) = .ok acc →
    acc.cnt.toNat = j.tileCount col row ∧ j.tileCount col row ≤ 65536 ∧
    ∀ c : Fin 3, (acc.sum c).toNat = tileSum m j col row c.val ∧ tileSum m j col row c.val ≤ 255 * 65536

/-! ## The addresses of a job -/

/-- 20_memory.md R45: every source sample lies in the source range and every destination sample in the destination range;
and, as 41_commands.md R104 says, distinct samples have distinct bytes. -/
def Obligations.JobAddressesLieInTheirRanges : Prop :=
  ∀ j : Job, j.Startable →
    (∀ x y c, x < j.w.toNat → y < j.h.toNat → c < 3 → j.srcFirst ≤ j.srcAddr x y c ∧ j.srcAddr x y c ≤ j.srcLast ∧
      ∀ x' y' c', x' < j.w.toNat → y' < j.h.toNat → c' < 3 → j.srcAddr x y c = j.srcAddr x' y' c' →
        x = x' ∧ y = y' ∧ c = c') ∧
    (∀ col row c, col < j.tx.toNat → row < j.ty.toNat → c < 3 →
      j.dstFirst ≤ j.dstAddr col row c ∧ j.dstAddr col row c ≤ j.dstLast ∧
      ∀ col' row' c', col' < j.tx.toNat → row' < j.ty.toNat → c' < 3 → j.dstAddr col row c = j.dstAddr col' row' c' →
        col = col' ∧ row = row' ∧ c = c') ∧
    j.srcFirst = j.src.toNat ∧ j.srcLast = j.src.toNat + (j.h.toNat - 1) * j.ss.toNat + 3 * j.w.toNat - 1 ∧
    j.dstFirst = j.dst.toNat ∧ j.dstLast = j.dst.toNat + (j.ty.toNat - 1) * j.ds.toNat + 3 * j.tx.toNat - 1 ∧
    j.srcLast ≤ 0xFFFFFFFF ∧ j.dstLast ≤ 0xFFFFFFFF ∧ (j.srcLast < j.dstFirst ∨ j.dstLast < j.srcFirst)

/-- The tiles of a job, in their order, read each byte of the source raster exactly once and write each byte of the Tile
Grid exactly once, whatever the sums are, and no other address; inside a tile the addresses of the reads rise, and so do those
of the writes, which is the order of R117. Derived from 20_memory.md R49 and 42_tile_engine.md R117. -/
def Obligations.JobAccessesEachByteOnce : Prop :=
  ∀ j : Job, j.Startable →
    (j.tiles.flatMap fun t => (j.tileReads t.1 t.2).map Prod.snd).Nodup ∧
    (∀ a, a ∈ (j.tiles.flatMap fun t => (j.tileReads t.1 t.2).map Prod.snd) ↔
      ∃ x y c, x < j.w.toNat ∧ y < j.h.toNat ∧ c < 3 ∧ a = j.srcAddr x y c) ∧
    (∀ col row, ((j.tileReads col row).map Prod.snd).Pairwise (· < ·)) ∧
    (∀ acc : Nat → Nat → Accumulators,
      (j.tiles.flatMap fun t => (j.tileWrites t.1 t.2 (acc t.1 t.2)).map Prod.fst).Nodup ∧
      (∀ a, a ∈ (j.tiles.flatMap fun t => (j.tileWrites t.1 t.2 (acc t.1 t.2)).map Prod.fst) ↔ j.Writes a) ∧
      ∀ col row, ((j.tileWrites col row (acc col row)).map Prod.fst).Pairwise (· < ·)) ∧
    j.allDst.Nodup ∧ ∀ a, a ∈ j.allDst ↔ j.Writes a

/-! ## The tile step -/

/-- A tile step whose accesses all succeed writes the three rounded means, leaves every other byte, counts the tile and
moves the cursor in row-major order. Derived from 42_tile_engine.md R113, R117, R119; its last tile is
`LastTileCompletesTheJob`. -/
def Obligations.TileStepWritesTheRoundedMeans : Prop :=
  ∀ s : State, s.Inv → s.phase = .busy →
    (∀ p ∈ s.job.tilePixels s.cursor.cbx.toNat s.cursor.cby.toNat, ∀ c, c < 3 →
      busOk s.busGaps (s.job.srcAddr p.1 p.2 c) .read = true) →
    (∀ c, c < 3 → busOk s.busGaps (s.job.dstAddr s.cursor.cbx.toNat s.cursor.cby.toNat c) .write = true) →
    s.cursor.cbx.toNat + 1 < s.job.tx.toNat ∨ s.cursor.cby.toNat + 1 < s.job.ty.toNat →
    ∃ t, tileStep s = .next t ∧ t.phase = .busy ∧ t.job = s.job ∧
      (∀ c, c < 3 → (Memory.read t.mem (s.job.dstAddr s.cursor.cbx.toNat s.cursor.cby.toNat c)).toNat =
        roundMean (tileSum s.mem s.job s.cursor.cbx.toNat s.cursor.cby.toNat c)
          (s.job.tileCount s.cursor.cbx.toNat s.cursor.cby.toNat) s.job.rnd) ∧
      (∀ a, OutsideTile s.job s.cursor.cbx.toNat s.cursor.cby.toNat a → Memory.read t.mem a = Memory.read s.mem a) ∧
      t.regs = { s.regs with progress := s.regs.progress + 1#32 } ∧
      (t.cursor.cbx.toNat, t.cursor.cby.toNat) =
        (if s.cursor.cbx.toNat + 1 < s.job.tx.toNat then (s.cursor.cbx.toNat + 1, s.cursor.cby.toNat)
          else (0, s.cursor.cby.toNat + 1)) ∧
      t.response = s.response ∧ t.busGaps = s.busGaps ∧ t.inputs = s.inputs ∧ t.hostByte = s.hostByte

/-- 42_tile_engine.md R120: the step of the last tile writes its bytes and completes the job: IDLE, BUSY 0, DONE 1,
PROGRESS = TX * TY, and irq is 1 if IE_DONE is. -/
def Obligations.LastTileCompletesTheJob : Prop :=
  ∀ s : State, s.Inv → s.phase = .busy →
    (∀ p ∈ s.job.tilePixels s.cursor.cbx.toNat s.cursor.cby.toNat, ∀ c, c < 3 →
      busOk s.busGaps (s.job.srcAddr p.1 p.2 c) .read = true) →
    (∀ c, c < 3 → busOk s.busGaps (s.job.dstAddr s.cursor.cbx.toNat s.cursor.cby.toNat c) .write = true) →
    s.cursor.cbx.toNat + 1 = s.job.tx.toNat → s.cursor.cby.toNat + 1 = s.job.ty.toNat →
    ∃ t, tileStep s = .next t ∧ t.phase = .idle ∧ (statusWord t.phase t.regs).getLsbD 0 = false ∧
      t.regs = { s.regs with progress := s.regs.progress + 1#32, done := true } ∧
      t.regs.progress.toNat = s.job.tx.toNat * s.job.ty.toNat ∧ (s.regs.ieDone = true → t.irq = true) ∧
      (∀ c, c < 3 → (Memory.read t.mem (s.job.dstAddr s.cursor.cbx.toNat s.cursor.cby.toNat c)).toNat =
        roundMean (tileSum s.mem s.job s.cursor.cbx.toNat s.cursor.cby.toNat c)
          (s.job.tileCount s.cursor.cbx.toNat s.cursor.cby.toNat) s.job.rnd) ∧
      (∀ a, OutsideTile s.job s.cursor.cbx.toNat s.cursor.cby.toNat a → Memory.read t.mem a = Memory.read s.mem a)

/-- 60_exceptions.md R128: the first read of the tile that the platform refuses, in the order of 42_tile_engine.md R117 (by row,
then by column, then by channel), ends the job with BUS_READ and its address; the first write with BUS_WRITE and its address. PROGRESS does not count the tile; a read error leaves every byte,
a write error the bytes from the refused one on, with those before it written. -/
def Obligations.BusErrorEndsTheJob : Prop :=
  ∀ s : State, s.Inv → s.phase = .busy →
    (∀ x y c, s.job.InTile s.cursor.cbx.toNat s.cursor.cby.toNat x y → c < 3 →
      (∀ x' y' c', s.job.InTile s.cursor.cbx.toNat s.cursor.cby.toNat x' y' → c' < 3 → ReadBefore x' y' c' x y c →
        busOk s.busGaps (s.job.srcAddr x' y' c') .read = true) →
      busOk s.busGaps (s.job.srcAddr x y c) .read = false →
      ∃ t, tileStep s = .next t ∧ t.phase = .idle ∧
        t.regs = { s.regs with
          err := true, errCode := .busRead, errAddr := BitVec.ofNat 32 (s.job.srcAddr x y c) } ∧
        t.regs.errAddr.toNat = s.job.srcAddr x y c ∧ t.job = s.job ∧ t.cursor = s.cursor ∧ SamePlatform s t) ∧
    (∀ k, k < 3 →
      (∀ p ∈ s.job.tilePixels s.cursor.cbx.toNat s.cursor.cby.toNat, ∀ c, c < 3 →
        busOk s.busGaps (s.job.srcAddr p.1 p.2 c) .read = true) →
      (∀ c, c < k → busOk s.busGaps (s.job.dstAddr s.cursor.cbx.toNat s.cursor.cby.toNat c) .write = true) →
      busOk s.busGaps (s.job.dstAddr s.cursor.cbx.toNat s.cursor.cby.toNat k) .write = false →
      ∃ t, tileStep s = .next t ∧ t.phase = .idle ∧
        t.regs = { s.regs with
          err := true, errCode := .busWrite,
          errAddr := BitVec.ofNat 32 (s.job.dstAddr s.cursor.cbx.toNat s.cursor.cby.toNat k) } ∧
        t.regs.errAddr.toNat = s.job.dstAddr s.cursor.cbx.toNat s.cursor.cby.toNat k ∧ t.job = s.job ∧
        t.cursor = s.cursor ∧
        (∀ c, c < k → (Memory.read t.mem (s.job.dstAddr s.cursor.cbx.toNat s.cursor.cby.toNat c)).toNat =
          roundMean (tileSum s.mem s.job s.cursor.cbx.toNat s.cursor.cby.toNat c)
            (s.job.tileCount s.cursor.cbx.toNat s.cursor.cby.toNat) s.job.rnd) ∧
        (∀ a, (∀ c, c < k → a ≠ s.job.dstAddr s.cursor.cbx.toNat s.cursor.cby.toNat c) →
          Memory.read t.mem a = Memory.read s.mem a))

/-! ## Invariants and jobs -/

/-- The values after reset, by number, and the invariant holds there. Derived from 10_state.md R40. JOB, CURSOR and the
platform's part are the model's choice (log 2, 5, 6), and nothing is said of them but that the invariant holds. -/
def Obligations.ResetHoldsTheResetValues : Prop :=
  State.reset.Inv ∧ State.reset.phase = .idle ∧ statusWord State.reset.phase State.reset.regs = 0#32 ∧
    ctrlWord State.reset.regs = 0#32 ∧ formatWord State.reset.regs = 3#32 ∧ widthWord State.reset.regs = 0#32 ∧
    heightWord State.reset.regs = 0#32 ∧ blockWord State.reset.regs = 1#32 ∧ State.reset.regs.srcBase = 0#32 ∧
    State.reset.regs.srcStride = 0#32 ∧ State.reset.regs.dstBase = 0#32 ∧ State.reset.regs.dstStride = 0#32 ∧
    tilesWord State.reset.regs = 0#32 ∧ State.reset.regs.progress = 0#32 ∧ State.reset.regs.errAddr = 0#32 ∧
    State.reset.irq = false

/-- Every step of every agent, from every state that meets the invariant, answers a next state that meets it. Derived from
10_state.md R20, R24, R31, R36 and 41_commands.md R104; the canonical form of memory is the model's own (log 5), and so is
what a step does with nothing pending (log 13, 14). -/
def Obligations.StepKeepsTheInvariant : Prop := ∀ s : State, s.Inv → ∃ t, step s = .next t ∧ t.Inv

/-- With no host action in between, a running job ends after at most J_TX * J_TY steps of the engine. Derived from
70_reset_and_hazards.md R151; that the engine moves when nothing else is pending is the model's choice (log 13). -/
def Obligations.JobEndsWithinItsTiles : Prop :=
  ∀ s : State, s.Inv → s.inputs = [] → s.phase = .busy →
    ∃ (k : Nat) (t : State), k ≤ s.job.tx.toNat * s.job.ty.toNat ∧ Host.Core.run Sys2Proof.core k s = .next t ∧
      t.phase = .idle

/-- In every interleaving without the hazard of R145 and without a hardware reset: while a job runs, the tiles that
PROGRESS counts hold their rounded means of the source at START, and when DONE is set every tile does. Derived from
42_tile_engine.md R121; that a step with nothing pending is the engine's is the model's choice (log 13). -/
def Obligations.EveryInterleavingWritesTheTileGrid : Prop :=
  ∀ (m0 : Memory) (s : State), s.Inv → s.phase = .busy → s.raced = false → s.TilesDone m0 → s.nextActionKeepsJob →
    ∃ t, step s = .next t ∧ (t.phase = .busy → t.job = s.job ∧ t.raced = false ∧ t.TilesDone m0) ∧
      (t.regs.done = true → ∀ col row c, col < s.job.tx.toNat → row < s.job.ty.toNat → c < 3 →
        Memory.read t.mem (s.job.dstAddr col row c) = jobByte m0 s.job col row c)

/-- A job that ends with DONE, with no other action meanwhile, leaves in memory the Tile Grid of the memory at its START,
every cell the rounded per-channel mean of its tile, and every other byte as it was. Derived from 42_tile_engine.md R121; that
the engine moves when nothing else is pending, and that the steps after the end change nothing, is the model's choice
(log 13, 14). -/
def Obligations.CompletedJobLeavesTheTileGrid : Prop :=
  ∀ (s t : State) (k : Nat), s.Inv → s.inputs = [] → s.phase = .busy → s.cursor = ⟨0#16, 0#16⟩ → s.raced = false →
    Host.Core.run Sys2Proof.core k s = .next t → t.regs.done = true →
    t.phase = .idle ∧ t.regs.progress.toNat = s.job.tx.toNat * s.job.ty.toNat ∧
    (∀ col row c, col < s.job.tx.toNat → row < s.job.ty.toNat → c < 3 →
      (Memory.read t.mem (s.job.dstAddr col row c)).toNat =
        roundMean (tileSum s.mem s.job col row c) (s.job.tileCount col row) s.job.rnd) ∧
    ∀ a, (∀ col row c, col < s.job.tx.toNat → row < s.job.ty.toNat → c < 3 → a ≠ s.job.dstAddr col row c) →
      Memory.read t.mem a = Memory.read s.mem a

/-! ## Memory and the platform -/

/-- Memories in canonical form that read alike are equal data. Derived from 20_memory.md R41; the form is the model's own
(log 5). -/
def Obligations.CanonicalMemoriesAreEqual : Prop :=
  ∀ m m' : Memory, Memory.wf m = true → Memory.wf m' = true → (∀ a, Memory.read m a = Memory.read m' a) → m = m'

/-- A one-byte access of the engine succeeds exactly where BUS_OK holds; a read that succeeds takes the
byte at the address, a write that succeeds sets it and no other byte, and one that fails reads or writes nothing. Derived from 20_memory.md R41. -/
def Obligations.MasterPortAccessesOneByte : Prop :=
  ∀ (m : Memory) (gaps : List BusGap) (a : Nat) (v : Byte) (c : Fin 3) (acc : Accumulators), Memory.wf m = true →
    a < 2 ^ 32 →
    (busOk gaps a .read = true → readTile m gaps [(c, a)] acc = .ok (acc.add c (Memory.read m a))) ∧
    (busOk gaps a .read = false → readTile m gaps [(c, a)] acc = .error (a, acc)) ∧
    (busOk gaps a .write = true → ∃ m', writeTile gaps [(a, v)] m = .ok m' ∧ Memory.wf m' = true ∧
      ∀ b, Memory.read m' b = if b = a then v else Memory.read m b) ∧
    (busOk gaps a .write = false → writeTile gaps [(a, v)] m = .error (a, m))

/-- The reset input puts every register at its reset value and the engine in IDLE, with irq 0, whatever the block was doing.
Platform memory stays, but for the three bytes of the tile at the cursor of a running job, and the destination bytes of a
running job that another agent raced (that a reset ends such a job is log 11). That the accumulators stay (log 4), and the
response, the host's byte, the pending actions and the records of unseen jobs (log 27), is the model's choice. Derived from
70_reset_and_hazards.md R142, R143, R145. -/
def Obligations.HardwareResetKeepsMemory : Prop :=
  ∀ (s : State) (rest : List Action), Memory.wf s.mem = true → s.inputs = .hardReset :: rest →
    ∃ t, step s = .next t ∧ t.regs = Regs.reset ∧ t.phase = .idle ∧ t.irq = false ∧ t.inputs = rest ∧
      t.busGaps = s.busGaps ∧ t.response = s.response ∧ t.hostByte = s.hostByte ∧ t.acc = s.acc ∧
      t.unsynced = s.unsynced ∧
      ∀ a, (s.phase = .busy → OutsideTile s.job s.cursor.cbx.toNat s.cursor.cby.toNat a ∧
          (s.raced = true → a ∉ s.job.allDst)) →
        Memory.read t.mem a = Memory.read s.mem a

/-- A write of another agent into a range of the running job is not detected: no register and nothing of the engine changes.
When that job then ends, in whatever way (log 11), only its destination bytes are open: every other byte, the registers and
the response are as the ending action left them. Derived from 70_reset_and_hazards.md R145. -/
def Obligations.RacedJobOpensOnlyItsDestination : Prop :=
  (∀ (s : State) (addr : Word) (value : Byte), s.phase = .busy → s.job.inRanges addr.toNat = true →
    (hostWrite addr value s).raced = true ∧ (hostWrite addr value s).regs = s.regs ∧
      SameEngine s (hostWrite addr value s)) ∧
  ∀ before after : State, before.phase = .busy → after.phase = .idle → Memory.wf after.mem = true →
    (settle before after).regs = after.regs ∧ (settle before after).response = after.response ∧
    (settle before after).raced = false ∧
    (∀ a, a ∉ before.job.allDst → Memory.read (settle before after).mem a = Memory.read after.mem a) ∧
    (before.raced = false → SameBytes after (settle before after))

/-- Once a read of STATUS has returned DONE = 1 or ERR = 1, the host reads every byte as memory holds it. Before, an early read
of a destination byte of a job that no agent raced returns the byte at START, the byte that the job writes, or would have
written had it not ended early (the model's choice, log 30), or the byte that memory holds (the model's reading, log 12). A byte
that no unseen job writes is read as memory holds it, and so is a source byte of the running job. Derived from 20_memory.md R54 and 70_reset_and_hazards.md R146. -/
def Obligations.StatusReadOrdersTheJobsWrites : Prop :=
  (∀ (s : State) (addr : Word), s.regs.done = true ∨ s.regs.err = true →
    ∃ t, exec .rdStatus s = .next t ∧ (hostRead addr t).hostByte = Memory.read s.mem addr.toNat) ∧
  (∀ (s : State) (addr : Word) (r : JobRecord) (rest : List JobRecord) (d : Nat × Nat × Nat),
    s.unsynced = r :: rest → r.raced = false → r.job.dstSample addr.toNat = some d →
    (hostRead addr s).hostByte = Memory.read r.startMem addr.toNat ∨
      (hostRead addr s).hostByte = jobByte r.startMem r.job d.1 d.2.1 d.2.2 ∨
      (hostRead addr s).hostByte = Memory.read s.mem addr.toNat) ∧
  (∀ (s : State) (addr : Word), (∀ r ∈ s.unsynced, ¬ r.job.Writes addr.toNat) →
    (hostRead addr s).hostByte = Memory.read s.mem addr.toNat) ∧
  ∀ (s : State) (addr : Word) (x y c : Nat), s.Inv → s.RecordsJob → s.phase = .busy →
    (∀ r ∈ s.unsynced.tail, ¬ r.job.Writes addr.toNat) → x < s.job.w.toNat → y < s.job.h.toNat → c < 3 →
    addr.toNat = s.job.srcAddr x y c → (hostRead addr s).hostByte = Memory.read s.mem addr.toNat

/-- A byte that an agent writes while no job runs is what the host reads next, and every other byte stays. Derived from
20_memory.md R52. -/
def Obligations.HostReadsWhatWasWritten : Prop :=
  ∀ (s : State) (addr : Word) (value : Byte) (rest : List Action), Memory.wf s.mem = true → s.phase = .idle →
    s.unsynced = [] → s.inputs = .hostWrite addr value :: .hostRead addr :: rest →
    ∃ t u, step s = .next t ∧ step t = .next u ∧ u.hostByte = value ∧ u.regs = s.regs ∧ u.inputs = rest ∧
      ∀ a, a ≠ addr.toNat → Memory.read u.mem a = Memory.read s.mem a

/-! ## Host scripts -/

/-- The pseudo-instructions are the transactions of their expansions, decoded. `wait` polls STATUS: where the block is IDLE
the line is done, where it is BUSY it stays (that there is at least one poll, log 32, and that the engine moves in between,
log 13, is the model's choice). Derived from 30_encoding.md R68. -/
def Obligations.PseudoInstructionsExpand : Prop :=
  (∀ line word, (line, word) ∈ [(ScriptLine.nop, 0#32), (.start, 1#32), (.abort, 2#32), (.sreset, 3#32)] →
    ∃ key data, line.actions = [.transaction key data] ∧ decode (.tx key data) = .wrCmd word) ∧
  (∃ key data, ScriptLine.clr.actions = [.transaction key data] ∧ decode (.tx key data) = .wrStatus 0xE#32) ∧
  (ScriptLine.run.actions = ScriptLine.start.actions ++ ScriptLine.wait.actions) ∧
  ∀ (s : State) (rest : List Action), s.inputs = .wait :: rest →
    ∃ t, step s = .next t ∧ t.response.resp = .okay ∧ t.regs = s.regs ∧
      t.response.rdata.getLsbD 0 = (s.phase == .busy) ∧
      t.inputs = if s.phase = .busy then .engine :: .wait :: rest else rest

/-- A line `rd REG` or `wr REG, VALUE` is the legal word transaction of the register's row, at the offset that R16's table
gives its name. A line with a numeric offset is the transaction of its size at that offset: a word line the row of an aligned
offset, and ACC_ILLEGAL at another one; a halfword or byte line always ACC_ILLEGAL. Derived from 10_state.md R16 and
30_encoding.md R67. -/
def Obligations.ScriptLinesAreTheirTransactions : Prop :=
  (∀ reg : RegName, ∃ key, (ScriptLine.rd reg).actions = [.transaction key 0#32] ∧
    key.toNat = 0x400 + reg.specRow.1 ∧ decode (.tx key 0#32) = reg.specRow.2.1) ∧
  (∀ (reg : RegName) (value : Word), ∃ key, (ScriptLine.wr reg value).actions = [.transaction key value] ∧
    key.toNat = 0x500 + reg.specRow.1 ∧ decode (.tx key value) = reg.specRow.2.2 value) ∧
  (∀ (off : BitVec 8) (value : Word),
    (∃ key, (ScriptLine.rdAt .word off).actions = [.transaction key 0#32] ∧ key.toNat = 0x400 + off.toNat ∧
      decode (.tx key 0#32) = if off.toNat % 4 = 0 then readRow off else .accIllegal .word false off) ∧
    ∃ key, (ScriptLine.wrAt .word off value).actions = [.transaction key value] ∧ key.toNat = 0x500 + off.toNat ∧
      decode (.tx key value) = if off.toNat % 4 = 0 then writeRow off value else .accIllegal .word true off) ∧
  ∀ (size : AccSize) (off : BitVec 8) (value : Word), size = .byte ∨ size = .half →
    (∃ key, (ScriptLine.rdAt size off).actions = [.transaction key 0#32] ∧
      key.toNat = (if size = .half then 0x200 else 0x000) + off.toNat ∧
      decode (.tx key 0#32) = .accIllegal size false off) ∧
    ∃ key, (ScriptLine.wrAt size off value).actions = [.transaction key value] ∧
      key.toNat = (if size = .half then 0x300 else 0x100) + off.toNat ∧
      decode (.tx key value) = .accIllegal size true off

/-! ## The interrupt as an ordering point -/

/-- Where irq rises in the step that ends a job, the host reads every byte that the job has written as memory holds it: all of
them after DONE, otherwise those of the tiles that PROGRESS counts and, after BUS_WRITE, those of the tile at the cursor that
precede ERR_ADDR. The records of earlier jobs stay. Derived from 20_memory.md R54; that only such a step counts as a rise for
the job's end is the model's reading (log 31). -/
def Obligations.IrqOrdersTheJobsWrites : Prop :=
  ∀ s t : State, s.Inv → s.RecordsJob → step s = .next t → s.phase = .busy → t.phase = .idle → s.irq = false →
    t.irq = true →
    t.unsynced.tail = s.unsynced.tail ∧
    ∀ (col row c : Nat) (addr : Word), col < s.job.tx.toNat → row < s.job.ty.toNat → c < 3 →
      addr.toNat = s.job.dstAddr col row c →
      t.regs.done = true ∨ row * s.job.tx.toNat + col < t.regs.progress.toNat ∨
        (t.regs.errCode = .busWrite ∧ col = s.cursor.cbx.toNat ∧ row = s.cursor.cby.toNat ∧
          addr.toNat < t.regs.errAddr.toNat) →
      (hostRead addr t).hostByte = Memory.read t.mem addr.toNat

/-- While a job runs, the newest record of an unseen job is its own: it holds at reset, and every step keeps it. A step that
begins a job puts a record with the memory at that START in front, and a step of a running job leaves that memory, and the
records behind. Derived from 20_memory.md R54 and 70_reset_and_hazards.md R146; the records are the model's own (log 12, 31). -/
def Obligations.StepKeepsTheJobsRecord : Prop :=
  State.reset.RecordsJob ∧ (∀ s : State, s.Inv → s.RecordsJob → ∃ t, step s = .next t ∧ t.RecordsJob) ∧
  (∀ s t : State, step s = .next t → s.phase = .idle → t.phase = .busy →
    ∃ r, t.unsynced = r :: s.unsynced ∧ r.job = t.job ∧ r.startMem = s.mem ∧ r.raced = false ∧ r.visible = 0) ∧
  ∀ (s t : State) (r : JobRecord) (older : List JobRecord), s.Inv → step s = .next t → s.phase = .busy →
    s.unsynced = r :: older →
    ∃ r', t.unsynced = r' :: older ∧ r'.job = r.job ∧ r'.startMem = r.startMem ∧ (r.raced = true → r'.raced = true)
end

