-- ==== Sys2Proof/Laws/Decode.lean ====
section
/-! SUPPORT. What decoding does to the fields of a key and of a command word. -/

namespace Sys2Proof

/-- A key gives back the fields that it is made of. -/
theorem makeKey_gives_fields (size : AccSize) (wr : Bool) (off : BitVec 8) :
    keySize (makeKey size wr off) = size ∧ keyWr (makeKey size wr off) = wr ∧ keyOff (makeKey size wr off) = off := by
  revert off
  cases size <;> cases wr <;> decide +kernel

@[simp] theorem keySize_makeKey (size : AccSize) (wr : Bool) (off : BitVec 8) : keySize (makeKey size wr off) = size :=
  (makeKey_gives_fields size wr off).1

@[simp] theorem keyWr_makeKey (size : AccSize) (wr : Bool) (off : BitVec 8) : keyWr (makeKey size wr off) = wr :=
  (makeKey_gives_fields size wr off).2.1

@[simp] theorem keyOff_makeKey (size : AccSize) (wr : Bool) (off : BitVec 8) : keyOff (makeKey size wr off) = off :=
  (makeKey_gives_fields size wr off).2.2

/-- A key that is made of its own fields is the key. -/
theorem makeKey_fields (key : Key) : makeKey (keySize key) (keyWr key) (keyOff key) = key := by
  revert key
  decide +kernel

/-- A reserved offset is aligned, and it is no named register's. -/
theorem readRow_reserved (off : BitVec 8) (h : reservedOff off = true) : alignedOff off = true ∧ readRow off = .rdRsvd off := by
  revert off
  decide +kernel

theorem writeRow_reserved (off : BitVec 8) (data : Word) (h : reservedOff off = true) :
    writeRow off data = .wrRsvd off data := by
  have h2 : ∀ o : BitVec 8, reservedOff o = true →
      o ≠ 0x00#8 ∧ o ≠ 0x04#8 ∧ o ≠ 0x08#8 ∧ o ≠ 0x0C#8 ∧ o ≠ 0x10#8 ∧ o ≠ 0x14#8 ∧ o ≠ 0x18#8 ∧ o ≠ 0x1C#8 ∧ o ≠ 0x20#8 ∧
        o ≠ 0x24#8 ∧ o ≠ 0x28#8 ∧ o ≠ 0x2C#8 ∧ o ≠ 0x30#8 ∧ o ≠ 0x34#8 ∧ o ≠ 0x38#8 := by
    decide +kernel
  simp [writeRow, h2 off h]

theorem decode_readKey_reserved (off : BitVec 8) (h : reservedOff off = true) :
    decode (.tx (readKey off) 0#32) = .rdRsvd off := by
  obtain ⟨h1, h2⟩ := readRow_reserved off h
  simp [decode, decodeKey, readKey, keySize_makeKey, keyWr_makeKey, keyOff_makeKey, h1, h2]

theorem decode_writeKey_reserved (off : BitVec 8) (data : Word) (h : reservedOff off = true) :
    decode (.tx (writeKey off) data) = .wrRsvd off data := by
  obtain ⟨h1, -⟩ := readRow_reserved off h
  simp [decode, decodeKey, writeKey, keySize_makeKey, keyWr_makeKey, keyOff_makeKey, h1, writeRow_reserved off data h]

theorem decode_makeKey_illegal (size : AccSize) (wr : Bool) (off : BitVec 8) (h : (!legalAccess size off) = true) :
    decode (.tx (makeKey size wr off) 0#32) = .accIllegal size wr off := by
  have h1 : ¬ (size = .word ∧ alignedOff off = true) := by
    rintro ⟨rfl, ha⟩
    simp [legalAccess, ha] at h
  simp only [decode, decodeKey, keySize_makeKey, keyWr_makeKey, keyOff_makeKey, if_neg h1]

theorem decode_reserved_command (word : Word) (h : reservedCommand word = true) :
    decode (.cmd word) = .cmdReserved word := by
  have h1 : commandMbz word ≠ 0#28 ∨ 4 ≤ (commandOp word).toNat := by
    simpa [reservedCommand, commandMbz, commandOp] using h
  rcases h1 with h1 | h1
  · simp [decode, decodeCommand, h1, Command.toInstr]
  · have h2 : ∀ o : BitVec 4, 4 ≤ o.toNat → o ≠ 0#4 ∧ o ≠ 1#4 ∧ o ≠ 2#4 ∧ o ≠ 3#4 := by decide
    simp [decode, decodeCommand, h2 _ h1, Command.toInstr]

end Sys2Proof
end

