-- ==== Sys2Proof/Laws/State.lean ====
section
/-! SUPPORT. The fields of a state and of the registers after each named update: one lemma per field, so that no later
proof unfolds a record update. -/

namespace Sys2Proof.Machine

open Sys2Proof

/-! ## `completeRead` -/

@[simp] theorem completeRead_regs (v : Word) (s : State) : (completeRead v s).regs = s.regs := rfl
@[simp] theorem completeRead_job (v : Word) (s : State) : (completeRead v s).job = s.job := rfl
@[simp] theorem completeRead_phase (v : Word) (s : State) : (completeRead v s).phase = s.phase := rfl
@[simp] theorem completeRead_cursor (v : Word) (s : State) : (completeRead v s).cursor = s.cursor := rfl
@[simp] theorem completeRead_acc (v : Word) (s : State) : (completeRead v s).acc = s.acc := rfl
@[simp] theorem completeRead_mem (v : Word) (s : State) : (completeRead v s).mem = s.mem := rfl
@[simp] theorem completeRead_busGaps (v : Word) (s : State) : (completeRead v s).busGaps = s.busGaps := rfl
@[simp] theorem completeRead_response (v : Word) (s : State) : (completeRead v s).response = ⟨.okay, v⟩ := rfl
@[simp] theorem completeRead_hostByte (v : Word) (s : State) : (completeRead v s).hostByte = s.hostByte := rfl
@[simp] theorem completeRead_inputs (v : Word) (s : State) : (completeRead v s).inputs = s.inputs := rfl
@[simp] theorem completeRead_raced (v : Word) (s : State) : (completeRead v s).raced = s.raced := rfl
@[simp] theorem completeRead_unsynced (v : Word) (s : State) : (completeRead v s).unsynced = s.unsynced := rfl
@[simp] theorem completeRead_draws (v : Word) (s : State) : (completeRead v s).draws = s.draws := rfl

/-! ## `completeWrite` -/

@[simp] theorem completeWrite_regs (s : State) : (completeWrite s).regs = s.regs := rfl
@[simp] theorem completeWrite_job (s : State) : (completeWrite s).job = s.job := rfl
@[simp] theorem completeWrite_phase (s : State) : (completeWrite s).phase = s.phase := rfl
@[simp] theorem completeWrite_cursor (s : State) : (completeWrite s).cursor = s.cursor := rfl
@[simp] theorem completeWrite_acc (s : State) : (completeWrite s).acc = s.acc := rfl
@[simp] theorem completeWrite_mem (s : State) : (completeWrite s).mem = s.mem := rfl
@[simp] theorem completeWrite_busGaps (s : State) : (completeWrite s).busGaps = s.busGaps := rfl
@[simp] theorem completeWrite_response (s : State) : (completeWrite s).response = ⟨.okay, 0#32⟩ := rfl
@[simp] theorem completeWrite_hostByte (s : State) : (completeWrite s).hostByte = s.hostByte := rfl
@[simp] theorem completeWrite_inputs (s : State) : (completeWrite s).inputs = s.inputs := rfl
@[simp] theorem completeWrite_raced (s : State) : (completeWrite s).raced = s.raced := rfl
@[simp] theorem completeWrite_unsynced (s : State) : (completeWrite s).unsynced = s.unsynced := rfl
@[simp] theorem completeWrite_draws (s : State) : (completeWrite s).draws = s.draws := rfl

/-! ## `completeIllegal` -/

@[simp] theorem completeIllegal_regs (s : State) : (completeIllegal s).regs = s.regs := rfl
@[simp] theorem completeIllegal_job (s : State) : (completeIllegal s).job = s.job := rfl
@[simp] theorem completeIllegal_phase (s : State) : (completeIllegal s).phase = s.phase := rfl
@[simp] theorem completeIllegal_cursor (s : State) : (completeIllegal s).cursor = s.cursor := rfl
@[simp] theorem completeIllegal_acc (s : State) : (completeIllegal s).acc = s.acc := rfl
@[simp] theorem completeIllegal_mem (s : State) : (completeIllegal s).mem = s.mem := rfl
@[simp] theorem completeIllegal_busGaps (s : State) : (completeIllegal s).busGaps = s.busGaps := rfl
@[simp] theorem completeIllegal_response (s : State) : (completeIllegal s).response = ⟨.slverr, 0#32⟩ := rfl
@[simp] theorem completeIllegal_hostByte (s : State) : (completeIllegal s).hostByte = s.hostByte := rfl
@[simp] theorem completeIllegal_inputs (s : State) : (completeIllegal s).inputs = s.inputs := rfl
@[simp] theorem completeIllegal_raced (s : State) : (completeIllegal s).raced = s.raced := rfl
@[simp] theorem completeIllegal_unsynced (s : State) : (completeIllegal s).unsynced = s.unsynced := rfl
@[simp] theorem completeIllegal_draws (s : State) : (completeIllegal s).draws = s.draws := rfl

/-! ## `writeRegs` -/

@[simp] theorem writeRegs_regs (r : Regs) (s : State) : (writeRegs r s).regs = r := rfl
@[simp] theorem writeRegs_job (r : Regs) (s : State) : (writeRegs r s).job = s.job := rfl
@[simp] theorem writeRegs_phase (r : Regs) (s : State) : (writeRegs r s).phase = s.phase := rfl
@[simp] theorem writeRegs_cursor (r : Regs) (s : State) : (writeRegs r s).cursor = s.cursor := rfl
@[simp] theorem writeRegs_acc (r : Regs) (s : State) : (writeRegs r s).acc = s.acc := rfl
@[simp] theorem writeRegs_mem (r : Regs) (s : State) : (writeRegs r s).mem = s.mem := rfl
@[simp] theorem writeRegs_busGaps (r : Regs) (s : State) : (writeRegs r s).busGaps = s.busGaps := rfl
@[simp] theorem writeRegs_response (r : Regs) (s : State) : (writeRegs r s).response = ⟨.okay, 0#32⟩ := rfl
@[simp] theorem writeRegs_hostByte (r : Regs) (s : State) : (writeRegs r s).hostByte = s.hostByte := rfl
@[simp] theorem writeRegs_inputs (r : Regs) (s : State) : (writeRegs r s).inputs = s.inputs := rfl
@[simp] theorem writeRegs_raced (r : Regs) (s : State) : (writeRegs r s).raced = s.raced := rfl
@[simp] theorem writeRegs_unsynced (r : Regs) (s : State) : (writeRegs r s).unsynced = s.unsynced := rfl
@[simp] theorem writeRegs_draws (r : Regs) (s : State) : (writeRegs r s).draws = s.draws := rfl

/-! ## `raiseError` -/

@[simp] theorem raiseError_regs (code : ErrCode) (addr : Word) (s : State) : (raiseError code addr s).regs = s.regs.setErr code addr := rfl
@[simp] theorem raiseError_job (code : ErrCode) (addr : Word) (s : State) : (raiseError code addr s).job = s.job := rfl
@[simp] theorem raiseError_phase (code : ErrCode) (addr : Word) (s : State) : (raiseError code addr s).phase = .idle := rfl
@[simp] theorem raiseError_cursor (code : ErrCode) (addr : Word) (s : State) : (raiseError code addr s).cursor = s.cursor := rfl
@[simp] theorem raiseError_acc (code : ErrCode) (addr : Word) (s : State) : (raiseError code addr s).acc = s.acc := rfl
@[simp] theorem raiseError_mem (code : ErrCode) (addr : Word) (s : State) : (raiseError code addr s).mem = s.mem := rfl
@[simp] theorem raiseError_busGaps (code : ErrCode) (addr : Word) (s : State) : (raiseError code addr s).busGaps = s.busGaps := rfl
@[simp] theorem raiseError_response (code : ErrCode) (addr : Word) (s : State) : (raiseError code addr s).response = s.response := rfl
@[simp] theorem raiseError_hostByte (code : ErrCode) (addr : Word) (s : State) : (raiseError code addr s).hostByte = s.hostByte := rfl
@[simp] theorem raiseError_inputs (code : ErrCode) (addr : Word) (s : State) : (raiseError code addr s).inputs = s.inputs := rfl
@[simp] theorem raiseError_raced (code : ErrCode) (addr : Word) (s : State) : (raiseError code addr s).raced = s.raced := rfl
@[simp] theorem raiseError_unsynced (code : ErrCode) (addr : Word) (s : State) : (raiseError code addr s).unsynced = s.unsynced := rfl
@[simp] theorem raiseError_draws (code : ErrCode) (addr : Word) (s : State) : (raiseError code addr s).draws = s.draws := rfl

/-! ## `raiseWErr` -/

@[simp] theorem raiseWErr_regs (code : WErrCode) (s : State) : (raiseWErr code s).regs = s.regs.setWerr code := rfl
@[simp] theorem raiseWErr_job (code : WErrCode) (s : State) : (raiseWErr code s).job = s.job := rfl
@[simp] theorem raiseWErr_phase (code : WErrCode) (s : State) : (raiseWErr code s).phase = s.phase := rfl
@[simp] theorem raiseWErr_cursor (code : WErrCode) (s : State) : (raiseWErr code s).cursor = s.cursor := rfl
@[simp] theorem raiseWErr_acc (code : WErrCode) (s : State) : (raiseWErr code s).acc = s.acc := rfl
@[simp] theorem raiseWErr_mem (code : WErrCode) (s : State) : (raiseWErr code s).mem = s.mem := rfl
@[simp] theorem raiseWErr_busGaps (code : WErrCode) (s : State) : (raiseWErr code s).busGaps = s.busGaps := rfl
@[simp] theorem raiseWErr_response (code : WErrCode) (s : State) : (raiseWErr code s).response = s.response := rfl
@[simp] theorem raiseWErr_hostByte (code : WErrCode) (s : State) : (raiseWErr code s).hostByte = s.hostByte := rfl
@[simp] theorem raiseWErr_inputs (code : WErrCode) (s : State) : (raiseWErr code s).inputs = s.inputs := rfl
@[simp] theorem raiseWErr_raced (code : WErrCode) (s : State) : (raiseWErr code s).raced = s.raced := rfl
@[simp] theorem raiseWErr_unsynced (code : WErrCode) (s : State) : (raiseWErr code s).unsynced = s.unsynced := rfl
@[simp] theorem raiseWErr_draws (code : WErrCode) (s : State) : (raiseWErr code s).draws = s.draws := rfl

/-! ## `resetBlock` -/

@[simp] theorem resetBlock_regs (s : State) : (resetBlock s).regs = Regs.reset := rfl
@[simp] theorem resetBlock_job (s : State) : (resetBlock s).job = freeJob s.draws := rfl
@[simp] theorem resetBlock_phase (s : State) : (resetBlock s).phase = .idle := rfl
@[simp] theorem resetBlock_cursor (s : State) : (resetBlock s).cursor = freeCursor (s.draws + 10) := rfl
@[simp] theorem resetBlock_acc (s : State) : (resetBlock s).acc = s.acc := rfl
@[simp] theorem resetBlock_mem (s : State) : (resetBlock s).mem = s.mem := rfl
@[simp] theorem resetBlock_busGaps (s : State) : (resetBlock s).busGaps = s.busGaps := rfl
@[simp] theorem resetBlock_response (s : State) : (resetBlock s).response = s.response := rfl
@[simp] theorem resetBlock_hostByte (s : State) : (resetBlock s).hostByte = s.hostByte := rfl
@[simp] theorem resetBlock_inputs (s : State) : (resetBlock s).inputs = s.inputs := rfl
@[simp] theorem resetBlock_raced (s : State) : (resetBlock s).raced = s.raced := rfl
@[simp] theorem resetBlock_unsynced (s : State) : (resetBlock s).unsynced = s.unsynced := rfl
@[simp] theorem resetBlock_draws (s : State) : (resetBlock s).draws = s.draws + 12 := rfl

/-! ## `scrambleState` -/

@[simp] theorem scrambleState_regs (addrs : List Nat) (s : State) : (scrambleState addrs s).regs = s.regs := rfl
@[simp] theorem scrambleState_job (addrs : List Nat) (s : State) : (scrambleState addrs s).job = s.job := rfl
@[simp] theorem scrambleState_phase (addrs : List Nat) (s : State) : (scrambleState addrs s).phase = s.phase := rfl
@[simp] theorem scrambleState_cursor (addrs : List Nat) (s : State) : (scrambleState addrs s).cursor = s.cursor := rfl
@[simp] theorem scrambleState_acc (addrs : List Nat) (s : State) : (scrambleState addrs s).acc = s.acc := rfl
@[simp] theorem scrambleState_mem (addrs : List Nat) (s : State) : (scrambleState addrs s).mem = scramble s.mem addrs s.draws := rfl
@[simp] theorem scrambleState_busGaps (addrs : List Nat) (s : State) : (scrambleState addrs s).busGaps = s.busGaps := rfl
@[simp] theorem scrambleState_response (addrs : List Nat) (s : State) : (scrambleState addrs s).response = s.response := rfl
@[simp] theorem scrambleState_hostByte (addrs : List Nat) (s : State) : (scrambleState addrs s).hostByte = s.hostByte := rfl
@[simp] theorem scrambleState_inputs (addrs : List Nat) (s : State) : (scrambleState addrs s).inputs = s.inputs := rfl
@[simp] theorem scrambleState_raced (addrs : List Nat) (s : State) : (scrambleState addrs s).raced = s.raced := rfl
@[simp] theorem scrambleState_unsynced (addrs : List Nat) (s : State) : (scrambleState addrs s).unsynced = s.unsynced := rfl
@[simp] theorem scrambleState_draws (addrs : List Nat) (s : State) : (scrambleState addrs s).draws = s.draws + addrs.length := rfl

/-! ## `latchForStart` -/

@[simp] theorem latchForStart_regs (s : State) : (latchForStart s).regs = { s.regs.clearDone.clearErr with progress := 0#32, errAddr := 0#32 } := rfl
@[simp] theorem latchForStart_job (s : State) : (latchForStart s).job = latchJob s.regs := rfl
@[simp] theorem latchForStart_phase (s : State) : (latchForStart s).phase = s.phase := rfl
@[simp] theorem latchForStart_cursor (s : State) : (latchForStart s).cursor = s.cursor := rfl
@[simp] theorem latchForStart_acc (s : State) : (latchForStart s).acc = s.acc := rfl
@[simp] theorem latchForStart_mem (s : State) : (latchForStart s).mem = s.mem := rfl
@[simp] theorem latchForStart_busGaps (s : State) : (latchForStart s).busGaps = s.busGaps := rfl
@[simp] theorem latchForStart_response (s : State) : (latchForStart s).response = s.response := rfl
@[simp] theorem latchForStart_hostByte (s : State) : (latchForStart s).hostByte = s.hostByte := rfl
@[simp] theorem latchForStart_inputs (s : State) : (latchForStart s).inputs = s.inputs := rfl
@[simp] theorem latchForStart_raced (s : State) : (latchForStart s).raced = s.raced := rfl
@[simp] theorem latchForStart_unsynced (s : State) : (latchForStart s).unsynced = s.unsynced := rfl
@[simp] theorem latchForStart_draws (s : State) : (latchForStart s).draws = s.draws := rfl

/-! ## `completeJob` -/

@[simp] theorem completeJob_regs (s : State) : (completeJob s).regs = { s.regs with done := true } := rfl
@[simp] theorem completeJob_job (s : State) : (completeJob s).job = s.job := rfl
@[simp] theorem completeJob_phase (s : State) : (completeJob s).phase = .idle := rfl
@[simp] theorem completeJob_cursor (s : State) : (completeJob s).cursor = s.cursor := rfl
@[simp] theorem completeJob_acc (s : State) : (completeJob s).acc = s.acc := rfl
@[simp] theorem completeJob_mem (s : State) : (completeJob s).mem = s.mem := rfl
@[simp] theorem completeJob_busGaps (s : State) : (completeJob s).busGaps = s.busGaps := rfl
@[simp] theorem completeJob_response (s : State) : (completeJob s).response = s.response := rfl
@[simp] theorem completeJob_hostByte (s : State) : (completeJob s).hostByte = s.hostByte := rfl
@[simp] theorem completeJob_inputs (s : State) : (completeJob s).inputs = s.inputs := rfl
@[simp] theorem completeJob_raced (s : State) : (completeJob s).raced = s.raced := rfl
@[simp] theorem completeJob_unsynced (s : State) : (completeJob s).unsynced = s.unsynced := rfl
@[simp] theorem completeJob_draws (s : State) : (completeJob s).draws = s.draws := rfl

/-! ## `jobBegan` -/

@[simp] theorem jobBegan_regs (s : State) : (jobBegan s).regs = s.regs := rfl
@[simp] theorem jobBegan_job (s : State) : (jobBegan s).job = s.job := rfl
@[simp] theorem jobBegan_phase (s : State) : (jobBegan s).phase = s.phase := rfl
@[simp] theorem jobBegan_cursor (s : State) : (jobBegan s).cursor = s.cursor := rfl
@[simp] theorem jobBegan_acc (s : State) : (jobBegan s).acc = s.acc := rfl
@[simp] theorem jobBegan_mem (s : State) : (jobBegan s).mem = s.mem := rfl
@[simp] theorem jobBegan_busGaps (s : State) : (jobBegan s).busGaps = s.busGaps := rfl
@[simp] theorem jobBegan_response (s : State) : (jobBegan s).response = s.response := rfl
@[simp] theorem jobBegan_hostByte (s : State) : (jobBegan s).hostByte = s.hostByte := rfl
@[simp] theorem jobBegan_inputs (s : State) : (jobBegan s).inputs = s.inputs := rfl
@[simp] theorem jobBegan_raced (s : State) : (jobBegan s).raced = false := rfl
@[simp] theorem jobBegan_unsynced (s : State) : (jobBegan s).unsynced = ⟨s.job, s.mem, false, 0⟩ :: s.unsynced := rfl
@[simp] theorem jobBegan_draws (s : State) : (jobBegan s).draws = s.draws := rfl

/-! ## `Regs.clearDone` -/

@[simp] theorem Regs.clearDone_ieDone (r : Regs) : (r.clearDone).ieDone = r.ieDone := rfl
@[simp] theorem Regs.clearDone_ieErr (r : Regs) : (r.clearDone).ieErr = r.ieErr := rfl
@[simp] theorem Regs.clearDone_ieWerr (r : Regs) : (r.clearDone).ieWerr = r.ieWerr := rfl
@[simp] theorem Regs.clearDone_rnd (r : Regs) : (r.clearDone).rnd = r.rnd := rfl
@[simp] theorem Regs.clearDone_done (r : Regs) : (r.clearDone).done = false := rfl
@[simp] theorem Regs.clearDone_err (r : Regs) : (r.clearDone).err = r.err := rfl
@[simp] theorem Regs.clearDone_werr (r : Regs) : (r.clearDone).werr = r.werr := rfl
@[simp] theorem Regs.clearDone_errCode (r : Regs) : (r.clearDone).errCode = r.errCode := rfl
@[simp] theorem Regs.clearDone_werrCode (r : Regs) : (r.clearDone).werrCode = r.werrCode := rfl
@[simp] theorem Regs.clearDone_channels (r : Regs) : (r.clearDone).channels = r.channels := rfl
@[simp] theorem Regs.clearDone_width (r : Regs) : (r.clearDone).width = r.width := rfl
@[simp] theorem Regs.clearDone_height (r : Regs) : (r.clearDone).height = r.height := rfl
@[simp] theorem Regs.clearDone_block (r : Regs) : (r.clearDone).block = r.block := rfl
@[simp] theorem Regs.clearDone_srcBase (r : Regs) : (r.clearDone).srcBase = r.srcBase := rfl
@[simp] theorem Regs.clearDone_srcStride (r : Regs) : (r.clearDone).srcStride = r.srcStride := rfl
@[simp] theorem Regs.clearDone_dstBase (r : Regs) : (r.clearDone).dstBase = r.dstBase := rfl
@[simp] theorem Regs.clearDone_dstStride (r : Regs) : (r.clearDone).dstStride = r.dstStride := rfl
@[simp] theorem Regs.clearDone_progress (r : Regs) : (r.clearDone).progress = r.progress := rfl
@[simp] theorem Regs.clearDone_errAddr (r : Regs) : (r.clearDone).errAddr = r.errAddr := rfl

/-! ## `Regs.clearErr` -/

@[simp] theorem Regs.clearErr_ieDone (r : Regs) : (r.clearErr).ieDone = r.ieDone := rfl
@[simp] theorem Regs.clearErr_ieErr (r : Regs) : (r.clearErr).ieErr = r.ieErr := rfl
@[simp] theorem Regs.clearErr_ieWerr (r : Regs) : (r.clearErr).ieWerr = r.ieWerr := rfl
@[simp] theorem Regs.clearErr_rnd (r : Regs) : (r.clearErr).rnd = r.rnd := rfl
@[simp] theorem Regs.clearErr_done (r : Regs) : (r.clearErr).done = r.done := rfl
@[simp] theorem Regs.clearErr_err (r : Regs) : (r.clearErr).err = false := rfl
@[simp] theorem Regs.clearErr_werr (r : Regs) : (r.clearErr).werr = r.werr := rfl
@[simp] theorem Regs.clearErr_errCode (r : Regs) : (r.clearErr).errCode = .none := rfl
@[simp] theorem Regs.clearErr_werrCode (r : Regs) : (r.clearErr).werrCode = r.werrCode := rfl
@[simp] theorem Regs.clearErr_channels (r : Regs) : (r.clearErr).channels = r.channels := rfl
@[simp] theorem Regs.clearErr_width (r : Regs) : (r.clearErr).width = r.width := rfl
@[simp] theorem Regs.clearErr_height (r : Regs) : (r.clearErr).height = r.height := rfl
@[simp] theorem Regs.clearErr_block (r : Regs) : (r.clearErr).block = r.block := rfl
@[simp] theorem Regs.clearErr_srcBase (r : Regs) : (r.clearErr).srcBase = r.srcBase := rfl
@[simp] theorem Regs.clearErr_srcStride (r : Regs) : (r.clearErr).srcStride = r.srcStride := rfl
@[simp] theorem Regs.clearErr_dstBase (r : Regs) : (r.clearErr).dstBase = r.dstBase := rfl
@[simp] theorem Regs.clearErr_dstStride (r : Regs) : (r.clearErr).dstStride = r.dstStride := rfl
@[simp] theorem Regs.clearErr_progress (r : Regs) : (r.clearErr).progress = r.progress := rfl
@[simp] theorem Regs.clearErr_errAddr (r : Regs) : (r.clearErr).errAddr = r.errAddr := rfl

/-! ## `Regs.clearWerr` -/

@[simp] theorem Regs.clearWerr_ieDone (r : Regs) : (r.clearWerr).ieDone = r.ieDone := rfl
@[simp] theorem Regs.clearWerr_ieErr (r : Regs) : (r.clearWerr).ieErr = r.ieErr := rfl
@[simp] theorem Regs.clearWerr_ieWerr (r : Regs) : (r.clearWerr).ieWerr = r.ieWerr := rfl
@[simp] theorem Regs.clearWerr_rnd (r : Regs) : (r.clearWerr).rnd = r.rnd := rfl
@[simp] theorem Regs.clearWerr_done (r : Regs) : (r.clearWerr).done = r.done := rfl
@[simp] theorem Regs.clearWerr_err (r : Regs) : (r.clearWerr).err = r.err := rfl
@[simp] theorem Regs.clearWerr_werr (r : Regs) : (r.clearWerr).werr = false := rfl
@[simp] theorem Regs.clearWerr_errCode (r : Regs) : (r.clearWerr).errCode = r.errCode := rfl
@[simp] theorem Regs.clearWerr_werrCode (r : Regs) : (r.clearWerr).werrCode = .none := rfl
@[simp] theorem Regs.clearWerr_channels (r : Regs) : (r.clearWerr).channels = r.channels := rfl
@[simp] theorem Regs.clearWerr_width (r : Regs) : (r.clearWerr).width = r.width := rfl
@[simp] theorem Regs.clearWerr_height (r : Regs) : (r.clearWerr).height = r.height := rfl
@[simp] theorem Regs.clearWerr_block (r : Regs) : (r.clearWerr).block = r.block := rfl
@[simp] theorem Regs.clearWerr_srcBase (r : Regs) : (r.clearWerr).srcBase = r.srcBase := rfl
@[simp] theorem Regs.clearWerr_srcStride (r : Regs) : (r.clearWerr).srcStride = r.srcStride := rfl
@[simp] theorem Regs.clearWerr_dstBase (r : Regs) : (r.clearWerr).dstBase = r.dstBase := rfl
@[simp] theorem Regs.clearWerr_dstStride (r : Regs) : (r.clearWerr).dstStride = r.dstStride := rfl
@[simp] theorem Regs.clearWerr_progress (r : Regs) : (r.clearWerr).progress = r.progress := rfl
@[simp] theorem Regs.clearWerr_errAddr (r : Regs) : (r.clearWerr).errAddr = r.errAddr := rfl

/-! ## `Regs.setErr` -/

@[simp] theorem Regs.setErr_ieDone (r : Regs) (code : ErrCode) (addr : Word) : (r.setErr code addr).ieDone = r.ieDone := rfl
@[simp] theorem Regs.setErr_ieErr (r : Regs) (code : ErrCode) (addr : Word) : (r.setErr code addr).ieErr = r.ieErr := rfl
@[simp] theorem Regs.setErr_ieWerr (r : Regs) (code : ErrCode) (addr : Word) : (r.setErr code addr).ieWerr = r.ieWerr := rfl
@[simp] theorem Regs.setErr_rnd (r : Regs) (code : ErrCode) (addr : Word) : (r.setErr code addr).rnd = r.rnd := rfl
@[simp] theorem Regs.setErr_done (r : Regs) (code : ErrCode) (addr : Word) : (r.setErr code addr).done = r.done := rfl
@[simp] theorem Regs.setErr_err (r : Regs) (code : ErrCode) (addr : Word) : (r.setErr code addr).err = true := rfl
@[simp] theorem Regs.setErr_werr (r : Regs) (code : ErrCode) (addr : Word) : (r.setErr code addr).werr = r.werr := rfl
@[simp] theorem Regs.setErr_errCode (r : Regs) (code : ErrCode) (addr : Word) : (r.setErr code addr).errCode = code := rfl
@[simp] theorem Regs.setErr_werrCode (r : Regs) (code : ErrCode) (addr : Word) : (r.setErr code addr).werrCode = r.werrCode := rfl
@[simp] theorem Regs.setErr_channels (r : Regs) (code : ErrCode) (addr : Word) : (r.setErr code addr).channels = r.channels := rfl
@[simp] theorem Regs.setErr_width (r : Regs) (code : ErrCode) (addr : Word) : (r.setErr code addr).width = r.width := rfl
@[simp] theorem Regs.setErr_height (r : Regs) (code : ErrCode) (addr : Word) : (r.setErr code addr).height = r.height := rfl
@[simp] theorem Regs.setErr_block (r : Regs) (code : ErrCode) (addr : Word) : (r.setErr code addr).block = r.block := rfl
@[simp] theorem Regs.setErr_srcBase (r : Regs) (code : ErrCode) (addr : Word) : (r.setErr code addr).srcBase = r.srcBase := rfl
@[simp] theorem Regs.setErr_srcStride (r : Regs) (code : ErrCode) (addr : Word) : (r.setErr code addr).srcStride = r.srcStride := rfl
@[simp] theorem Regs.setErr_dstBase (r : Regs) (code : ErrCode) (addr : Word) : (r.setErr code addr).dstBase = r.dstBase := rfl
@[simp] theorem Regs.setErr_dstStride (r : Regs) (code : ErrCode) (addr : Word) : (r.setErr code addr).dstStride = r.dstStride := rfl
@[simp] theorem Regs.setErr_progress (r : Regs) (code : ErrCode) (addr : Word) : (r.setErr code addr).progress = r.progress := rfl
@[simp] theorem Regs.setErr_errAddr (r : Regs) (code : ErrCode) (addr : Word) : (r.setErr code addr).errAddr = addr := rfl

/-! ## `Regs.setWerr` -/

@[simp] theorem Regs.setWerr_ieDone (r : Regs) (code : WErrCode) : (r.setWerr code).ieDone = r.ieDone := rfl
@[simp] theorem Regs.setWerr_ieErr (r : Regs) (code : WErrCode) : (r.setWerr code).ieErr = r.ieErr := rfl
@[simp] theorem Regs.setWerr_ieWerr (r : Regs) (code : WErrCode) : (r.setWerr code).ieWerr = r.ieWerr := rfl
@[simp] theorem Regs.setWerr_rnd (r : Regs) (code : WErrCode) : (r.setWerr code).rnd = r.rnd := rfl
@[simp] theorem Regs.setWerr_done (r : Regs) (code : WErrCode) : (r.setWerr code).done = r.done := rfl
@[simp] theorem Regs.setWerr_err (r : Regs) (code : WErrCode) : (r.setWerr code).err = r.err := rfl
@[simp] theorem Regs.setWerr_werr (r : Regs) (code : WErrCode) : (r.setWerr code).werr = true := rfl
@[simp] theorem Regs.setWerr_errCode (r : Regs) (code : WErrCode) : (r.setWerr code).errCode = r.errCode := rfl
@[simp] theorem Regs.setWerr_werrCode (r : Regs) (code : WErrCode) : (r.setWerr code).werrCode = if r.werr then r.werrCode else code := rfl
@[simp] theorem Regs.setWerr_channels (r : Regs) (code : WErrCode) : (r.setWerr code).channels = r.channels := rfl
@[simp] theorem Regs.setWerr_width (r : Regs) (code : WErrCode) : (r.setWerr code).width = r.width := rfl
@[simp] theorem Regs.setWerr_height (r : Regs) (code : WErrCode) : (r.setWerr code).height = r.height := rfl
@[simp] theorem Regs.setWerr_block (r : Regs) (code : WErrCode) : (r.setWerr code).block = r.block := rfl
@[simp] theorem Regs.setWerr_srcBase (r : Regs) (code : WErrCode) : (r.setWerr code).srcBase = r.srcBase := rfl
@[simp] theorem Regs.setWerr_srcStride (r : Regs) (code : WErrCode) : (r.setWerr code).srcStride = r.srcStride := rfl
@[simp] theorem Regs.setWerr_dstBase (r : Regs) (code : WErrCode) : (r.setWerr code).dstBase = r.dstBase := rfl
@[simp] theorem Regs.setWerr_dstStride (r : Regs) (code : WErrCode) : (r.setWerr code).dstStride = r.dstStride := rfl
@[simp] theorem Regs.setWerr_progress (r : Regs) (code : WErrCode) : (r.setWerr code).progress = r.progress := rfl
@[simp] theorem Regs.setWerr_errAddr (r : Regs) (code : WErrCode) : (r.setWerr code).errAddr = r.errAddr := rfl

end Sys2Proof.Machine
end

