-- ==== Sys2Proof/Laws/Memory.lean ====
section
/-! SUPPORT. Platform memory: a read after a write, and that every operation keeps the canonical form. -/

namespace Sys2Proof.Machine

open Sys2Proof

/-! ## The canonical form -/

theorem wfAbove_cons (low b : Nat) (w : Byte) (rest : Memory) :
    Memory.wfAbove low ((b, w) :: rest) = true ↔
      low ≤ b ∧ b < Config.memSize ∧ w ≠ Config.blankByte ∧ Memory.wfAbove (b + 1) rest = true := by
  simp [Memory.wfAbove, and_assoc]

/-- A bound below a list's addresses may be lowered. -/
theorem wfAbove_mono {low low' : Nat} (h : low' ≤ low) (m : Memory) (hm : Memory.wfAbove low m = true) :
    Memory.wfAbove low' m = true := by
  cases m with
  | nil => rfl
  | cons e rest =>
    obtain ⟨b, w⟩ := e
    rw [wfAbove_cons] at hm ⊢
    exact ⟨by omega, hm.2⟩

/-- An address below a canonical list's bound is not listed. -/
theorem read_below (low a : Nat) (m : Memory) (hm : Memory.wfAbove low m = true) (h : a < low) :
    Memory.read m a = Config.blankByte := by
  induction m generalizing low with
  | nil => rfl
  | cons e rest ih =>
    obtain ⟨b, w⟩ := e
    rw [wfAbove_cons] at hm
    have hb : b ≠ a := by omega
    simp only [Memory.read, hb, if_false]
    exact ih (b + 1) hm.2.2.2 (by omega)

theorem wfAbove_put (low a : Nat) (v : Byte) (m : Memory) (hm : Memory.wfAbove low m = true) (hl : low ≤ a)
    (ha : a < Config.memSize) : Memory.wfAbove low (Memory.put m a v) = true := by
  induction m generalizing low with
  | nil =>
    unfold Memory.put
    split
    · rfl
    · rw [wfAbove_cons]
      exact ⟨hl, ha, ‹_›, rfl⟩
  | cons e rest ih =>
    obtain ⟨b, w⟩ := e
    have hm' := (wfAbove_cons low b w rest).1 hm
    unfold Memory.put
    split
    · split
      · exact hm
      · rw [wfAbove_cons, wfAbove_cons]
        exact ⟨hl, ha, ‹_›, by omega, hm'.2⟩
    · split
      · split
        · exact wfAbove_mono (by omega) rest hm'.2.2.2
        · subst_vars
          rw [wfAbove_cons]
          exact ⟨hl, ha, ‹_›, hm'.2.2.2⟩
      · rw [wfAbove_cons]
        exact ⟨hm'.1, hm'.2.1, hm'.2.2.1, ih (b + 1) hm'.2.2.2 (by omega)⟩

theorem read_put (low a : Nat) (v : Byte) (m : Memory) (hm : Memory.wfAbove low m = true) (b : Nat) :
    Memory.read (Memory.put m a v) b = if b = a then v else Memory.read m b := by
  induction m generalizing low with
  | nil =>
    unfold Memory.put
    by_cases h : b = a
    · split
      · rename_i hv
        rw [hv]
        rfl
      · simp [Memory.read, h]
    · split
      · rfl
      · simp [Memory.read, Ne.symm h]
  | cons e rest ih =>
    obtain ⟨k, w⟩ := e
    have hm' := (wfAbove_cons low k w rest).1 hm
    unfold Memory.put
    split
    · rename_i hak
      split
      · rename_i hv
        by_cases h : b = a
        · rw [if_pos h, hv, h]
          exact read_below k a _ ((wfAbove_cons k k w rest).2 ⟨le_refl k, hm'.2⟩) hak
        · rw [if_neg h]
      · by_cases h : b = a
        · simp [Memory.read, h]
        · simp [Memory.read, h, Ne.symm h]
    · split
      · rename_i hak
        subst hak
        split
        · rename_i hv
          by_cases h : b = a
          · rw [if_pos h, hv, h]
            exact read_below (a + 1) a rest hm'.2.2.2 (by omega)
          · simp [Memory.read, h, Ne.symm h]
        · by_cases h : b = a
          · simp [Memory.read, h]
          · simp [Memory.read, h, Ne.symm h]
      · rename_i hak
        by_cases h : b = k
        · have hka : k ≠ a := fun e => hak e.symm
          simp [Memory.read, h, hka]
        · simp only [Memory.read, Ne.symm h, if_false]
          exact ih (k + 1) hm'.2.2.2

/-! ## Writes -/

/-- A write inside memory puts the byte at its address and changes no other byte (20_memory.md R41). -/
theorem read_write (m : Memory) (hm : Memory.wf m = true) (a : Nat) (v : Byte) (ha : a < Config.memSize) (b : Nat) :
    Memory.read (Memory.write m a v) b = if b = a then v else Memory.read m b := by
  unfold Memory.write
  rw [if_pos ha]
  exact read_put 0 a v m hm b

/-- A write changes no other byte, wherever its address is. -/
theorem read_write_ne (m : Memory) (hm : Memory.wf m = true) (a : Nat) (v : Byte) (b : Nat) (h : b ≠ a) :
    Memory.read (Memory.write m a v) b = Memory.read m b := by
  by_cases ha : a < Config.memSize
  · rw [read_write m hm a v ha b, if_neg h]
  · unfold Memory.write
    rw [if_neg ha]

/-- A write keeps the canonical form. -/
theorem wf_write (m : Memory) (hm : Memory.wf m = true) (a : Nat) (v : Byte) : Memory.wf (Memory.write m a v) = true := by
  unfold Memory.write
  split
  · exact wfAbove_put 0 a v m hm (Nat.zero_le a) ‹_›
  · exact hm

/-- Free bytes at a list of addresses keep the canonical form. -/
theorem wf_scramble (addrs : List Nat) (n : Nat) (m : Memory) (hm : Memory.wf m = true) :
    Memory.wf (scramble m addrs n) = true := by
  induction addrs generalizing m n with
  | nil => exact hm
  | cons a rest ih => exact ih (n + 1) _ (wf_write m hm a _)

/-- Free bytes at a list of addresses leave every other byte. -/
theorem read_scramble (addrs : List Nat) (n : Nat) (m : Memory) (hm : Memory.wf m = true) (b : Nat) (hb : b ∉ addrs) :
    Memory.read (scramble m addrs n) b = Memory.read m b := by
  induction addrs generalizing m n with
  | nil => rfl
  | cons a rest ih =>
    rw [List.mem_cons, not_or] at hb
    rw [scramble, ih (n + 1) _ (wf_write m hm a _) hb.2, read_write_ne m hm a _ b hb.1]

/-- The memory after reset is canonical. -/
theorem wf_reset : Memory.wf State.reset.mem = true := rfl

end Sys2Proof.Machine
end

