-- ==== Sys2Proof/Laws/Engine.lean ====
section
/-! SUPPORT. What the engine's reads and writes can do, said once. -/

namespace Sys2Proof.Machine

open Sys2Proof

/-! ## Reads -/

/-- The accumulators after a list of reads that all succeed. -/
def accumulate (mem : Memory) (reads : List (Fin 3 × Nat)) (acc : Accumulators) : Accumulators :=
  reads.foldl (fun acc r => acc.add r.1 (Memory.read mem r.2)) acc

/-- The reads end with the accumulated sums, and then the platform answered every one of them; or at the first one that
it refused, with the sums up to there. -/
theorem readTile_cases (mem : Memory) (gaps : List BusGap) (reads : List (Fin 3 × Nat)) (acc : Accumulators) :
    (readTile mem gaps reads acc = .ok (accumulate mem reads acc) ∧ ∀ r ∈ reads, busOk gaps r.2 .read = true) ∨
      ∃ before c a after, reads = before ++ (c, a) :: after ∧ (∀ r ∈ before, busOk gaps r.2 .read = true) ∧
        busOk gaps a .read = false ∧ readTile mem gaps reads acc = .error (a, accumulate mem before acc) := by
  induction reads generalizing acc with
  | nil => exact .inl ⟨rfl, by simp⟩
  | cons r rest ih =>
    obtain ⟨c, a⟩ := r
    by_cases h : busOk gaps a .read = true
    · have step : readTile mem gaps ((c, a) :: rest) acc = readTile mem gaps rest (acc.add c (Memory.read mem a)) := by
        simp [readTile, h]
      rcases ih (acc.add c (Memory.read mem a)) with ⟨h1, h2⟩ | ⟨before, c', a', after, h1, h2, h3, h4⟩
      · refine .inl ⟨by rw [step, h1]; rfl, ?_⟩
        intro r hr
        rcases List.mem_cons.1 hr with rfl | hr
        · exact h
        · exact h2 r hr
      · refine .inr ⟨(c, a) :: before, c', a', after, by rw [h1]; rfl, ?_, h3, by rw [step, h4]; rfl⟩
        intro r hr
        rcases List.mem_cons.1 hr with rfl | hr
        · exact h
        · exact h2 r hr
    · rw [Bool.not_eq_true] at h
      exact .inr ⟨[], c, a, rest, rfl, by simp, h, by simp [readTile, h, accumulate]⟩

/-! ## Writes -/

/-- Memory after a list of writes that all succeed. -/
def writeAll (writes : List (Nat × Byte)) (mem : Memory) : Memory :=
  writes.foldl (fun m w => Memory.write m w.1 w.2) mem

/-- The writes end with all of them in memory, and then the platform answered every one; or at the first one that it
refused, with those before it in memory. -/
theorem writeTile_cases (gaps : List BusGap) (writes : List (Nat × Byte)) (mem : Memory) :
    (writeTile gaps writes mem = .ok (writeAll writes mem) ∧ ∀ w ∈ writes, busOk gaps w.1 .write = true) ∨
      ∃ before a v after, writes = before ++ (a, v) :: after ∧ (∀ w ∈ before, busOk gaps w.1 .write = true) ∧
        busOk gaps a .write = false ∧ writeTile gaps writes mem = .error (a, writeAll before mem) := by
  induction writes generalizing mem with
  | nil => exact .inl ⟨rfl, by simp⟩
  | cons w rest ih =>
    obtain ⟨a, v⟩ := w
    by_cases h : busOk gaps a .write = true
    · have step : writeTile gaps ((a, v) :: rest) mem = writeTile gaps rest (Memory.write mem a v) := by
        simp [writeTile, h]
      rcases ih (Memory.write mem a v) with ⟨h1, h2⟩ | ⟨before, a', v', after, h1, h2, h3, h4⟩
      · refine .inl ⟨by rw [step, h1]; rfl, ?_⟩
        intro w hw
        rcases List.mem_cons.1 hw with rfl | hw
        · exact h
        · exact h2 w hw
      · refine .inr ⟨(a, v) :: before, a', v', after, by rw [h1]; rfl, ?_, h3, by rw [step, h4]; rfl⟩
        intro w hw
        rcases List.mem_cons.1 hw with rfl | hw
        · exact h
        · exact h2 w hw
    · rw [Bool.not_eq_true] at h
      exact .inr ⟨[], a, v, rest, rfl, by simp, h, by simp [writeTile, h, writeAll]⟩

/-- A list of writes keeps the canonical form. -/
theorem wf_writeAll (writes : List (Nat × Byte)) (mem : Memory) (h : Memory.wf mem = true) :
    Memory.wf (writeAll writes mem) = true := by
  induction writes generalizing mem with
  | nil => exact h
  | cons w rest ih => exact ih _ (wf_write mem h w.1 w.2)

/-- A list of writes leaves every byte that none of them names. -/
theorem read_writeAll (writes : List (Nat × Byte)) (mem : Memory) (h : Memory.wf mem = true) (a : Nat)
    (ha : ∀ w ∈ writes, w.1 ≠ a) : Memory.read (writeAll writes mem) a = Memory.read mem a := by
  induction writes generalizing mem with
  | nil => rfl
  | cons w rest ih =>
    have h1 : a ≠ w.1 := fun e => ha w (by simp) e.symm
    calc Memory.read (writeAll (w :: rest) mem) a
        = Memory.read (writeAll rest (Memory.write mem w.1 w.2)) a := rfl
      _ = Memory.read (Memory.write mem w.1 w.2) a :=
          ih _ (wf_write mem h w.1 w.2) (fun w' hw' => ha w' (List.mem_cons_of_mem _ hw'))
      _ = Memory.read mem a := read_write_ne mem h w.1 w.2 a h1

/-! ## The tile step -/

/-- The reads of the tile at the cursor. -/
def State.curReads (s : State) : List (Fin 3 × Nat) := s.job.tileReads s.cursor.cbx.toNat s.cursor.cby.toNat

/-- The accumulators at the start of the tile at the cursor. -/
def State.curStart (s : State) : Accumulators := Accumulators.start (s.job.tileCount s.cursor.cbx.toNat s.cursor.cby.toNat)

/-- The accumulators after every read of the tile at the cursor. -/
def State.curAcc (s : State) : Accumulators := accumulate s.mem s.curReads s.curStart

/-- The writes of the tile at the cursor. -/
def State.curWrites (s : State) : List (Nat × Byte) := s.job.tileWrites s.cursor.cbx.toNat s.cursor.cby.toNat s.curAcc

/-- A tile step ends at the first read that the platform refuses, at the first write that it refuses, or with the tile
written, counted and the cursor moved. -/
theorem processTile_cases (s : State) :
    (∃ before c a after, s.curReads = before ++ (c, a) :: after ∧ (∀ r ∈ before, busOk s.busGaps r.2 .read = true) ∧
        busOk s.busGaps a .read = false ∧
        processTile s = raiseError .busRead (BitVec.ofNat 32 a) { s with acc := accumulate s.mem before s.curStart }) ∨
      ((∀ r ∈ s.curReads, busOk s.busGaps r.2 .read = true) ∧ ∃ before a v after, s.curWrites = before ++ (a, v) :: after ∧
        (∀ w ∈ before, busOk s.busGaps w.1 .write = true) ∧ busOk s.busGaps a .write = false ∧
        processTile s =
          raiseError .busWrite (BitVec.ofNat 32 a) { s with acc := s.curAcc, mem := writeAll before s.mem }) ∨
      ((∀ r ∈ s.curReads, busOk s.busGaps r.2 .read = true) ∧ (∀ w ∈ s.curWrites, busOk s.busGaps w.1 .write = true) ∧
        processTile s = advance { s with acc := s.curAcc, mem := writeAll s.curWrites s.mem }) := by
  rcases readTile_cases s.mem s.busGaps s.curReads s.curStart with ⟨h, hr⟩ | ⟨before, c, a, after, h1, h2, h3, h⟩
  · have afterReads : processTile s =
        match writeTile s.busGaps s.curWrites s.mem with
        | .error (a, mem) => raiseError .busWrite (BitVec.ofNat 32 a) { s with acc := s.curAcc, mem := mem }
        | .ok mem => advance { s with acc := s.curAcc, mem := mem } := by
      unfold State.curReads State.curStart at h
      simp only [processTile, h]
      rfl
    rcases writeTile_cases s.busGaps s.curWrites s.mem with ⟨h4, hw⟩ | ⟨before, a, v, after, h5, h6, h7, h4⟩
    · exact .inr (.inr ⟨hr, hw, by rw [afterReads, h4]⟩)
    · exact .inr (.inl ⟨hr, before, a, v, after, h5, h6, h7, by rw [afterReads, h4]⟩)
  · refine .inl ⟨before, c, a, after, h1, h2, h3, ?_⟩
    unfold State.curReads State.curStart at h
    simp only [processTile, h]
    rfl

/-- After a written tile the cursor moves right, or to the next row, or the job is complete. -/
theorem advance_cases (s : State) :
    (s.cursor.cbx.toNat + 1 < s.job.tx.toNat ∧ advance s =
        { s with regs := { s.regs with progress := s.regs.progress + 1#32 }, cursor := ⟨s.cursor.cbx + 1#16, s.cursor.cby⟩ }) ∨
      (¬ s.cursor.cbx.toNat + 1 < s.job.tx.toNat ∧ s.cursor.cby.toNat + 1 < s.job.ty.toNat ∧ advance s =
        { s with regs := { s.regs with progress := s.regs.progress + 1#32 }, cursor := ⟨0#16, s.cursor.cby + 1#16⟩ }) ∨
      (¬ s.cursor.cbx.toNat + 1 < s.job.tx.toNat ∧ ¬ s.cursor.cby.toNat + 1 < s.job.ty.toNat ∧ advance s =
        completeJob { s with regs := { s.regs with progress := s.regs.progress + 1#32 } }) := by
  unfold advance
  by_cases h1 : s.cursor.cbx.toNat + 1 < s.job.tx.toNat
  · exact .inl ⟨h1, by simp [h1]⟩
  · by_cases h2 : s.cursor.cby.toNat + 1 < s.job.ty.toNat
    · exact .inr (.inl ⟨h1, h2, by simp [h1, h2]⟩)
    · exact .inr (.inr ⟨h1, h2, by simp [h1, h2]⟩)

end Sys2Proof.Machine
end

