-- ==== Sys2Proof/Laws/Operands.lean ====
section
/-! SUPPORT. The operands and the words of registers as numbers. -/

namespace Sys2Proof.Machine

open Sys2Proof

/-! ## Words from their fields -/

theorem toNat_append_eq {n m : Nat} (x : BitVec n) (y : BitVec m) : (x ++ y).toNat = x.toNat * 2 ^ m + y.toNat := by
  rw [BitVec.toNat_append, ← Nat.shiftLeft_add_eq_or_of_lt y.isLt, Nat.shiftLeft_eq]

theorem toNat_zero_append {n m : Nat} (y : BitVec m) : (0#n ++ y).toNat = y.toNat := by
  rw [toNat_append_eq]
  simp

@[simp] theorem formatWord_toNat (r : Regs) : (formatWord r).toNat = r.channels.toNat := toNat_zero_append r.channels

@[simp] theorem widthWord_toNat (r : Regs) : (widthWord r).toNat = r.width.toNat := toNat_zero_append r.width

@[simp] theorem heightWord_toNat (r : Regs) : (heightWord r).toNat = r.height.toNat := toNat_zero_append r.height

@[simp] theorem blockWord_toNat (r : Regs) : (blockWord r).toNat = r.block.toNat := toNat_zero_append r.block

theorem ctrlWord_toNat (r : Regs) :
    (ctrlWord r).toNat = 8 * r.rnd.toNat + 4 * r.ieWerr.toNat + 2 * r.ieErr.toNat + r.ieDone.toNat := by
  have h : ∀ a b c d : Bool, (0#28 ++ BitVec.ofBool a ++ BitVec.ofBool b ++ BitVec.ofBool c ++ BitVec.ofBool d).toNat =
      8 * a.toNat + 4 * b.toNat + 2 * c.toNat + d.toNat := by decide
  exact h r.rnd r.ieWerr r.ieErr r.ieDone

theorem statusWord_toNat (phase : Phase) (r : Regs) :
    (statusWord phase r).toNat =
      4096 * r.werrCode.bits.toNat + 256 * r.errCode.bits.toNat + 16 * r.irq.toNat + 8 * r.werr.toNat + 4 * r.err.toNat +
        2 * r.done.toNat + phase.isBusy.toNat := by
  have h : ∀ (wc ec : BitVec 4) (i w e d b : Bool),
      (0#16 ++ wc ++ ec ++ 0#3 ++ BitVec.ofBool i ++ BitVec.ofBool w ++ BitVec.ofBool e ++ BitVec.ofBool d ++
        BitVec.ofBool b).toNat =
      4096 * wc.toNat + 256 * ec.toNat + 16 * i.toNat + 8 * w.toNat + 4 * e.toNat + 2 * d.toNat + b.toNat := by
    intro wc ec i w e d b
    simp only [toNat_append_eq, BitVec.toNat_ofBool, BitVec.toNat_ofNat]
    omega
  exact h r.werrCode.bits r.errCode.bits r.irq r.werr r.err r.done phase.isBusy

theorem flag_low {n : Nat} (x : BitVec n) (b : Bool) : (x ++ BitVec.ofBool b).getLsbD 0 = b := by
  rw [BitVec.getLsbD_append]
  simp

theorem flag_high {n : Nat} (x : BitVec n) (b : Bool) (k : Nat) : (x ++ BitVec.ofBool b).getLsbD (k + 1) = x.getLsbD k := by
  rw [BitVec.getLsbD_append]
  simp

/-- The flags of STATUS at their bits. -/
theorem statusWord_bits (phase : Phase) (r : Regs) :
    (statusWord phase r).getLsbD 0 = phase.isBusy ∧ (statusWord phase r).getLsbD 1 = r.done ∧
      (statusWord phase r).getLsbD 2 = r.err ∧ (statusWord phase r).getLsbD 3 = r.werr ∧
      (statusWord phase r).getLsbD 4 = r.irq := by
  exact ⟨flag_low _ _, (flag_high _ _ 0).trans (flag_low _ _),
    (flag_high _ _ 1).trans ((flag_high _ _ 0).trans (flag_low _ _)),
    (flag_high _ _ 2).trans ((flag_high _ _ 1).trans ((flag_high _ _ 0).trans (flag_low _ _))),
    (flag_high _ _ 3).trans ((flag_high _ _ 2).trans ((flag_high _ _ 1).trans ((flag_high _ _ 0).trans (flag_low _ _))))⟩

/-! ## The grid -/

theorem ceilDiv_le (a b : Nat) : ceilDiv a b ≤ a := by
  unfold ceilDiv
  rcases Nat.eq_zero_or_pos b with rfl | hb
  · simp
  · rcases Nat.eq_zero_or_pos a with rfl | ha
    · rw [Nat.zero_add, Nat.div_eq_of_lt (by omega)]
    · rw [← Nat.lt_add_one_iff, Nat.div_lt_iff_lt_mul hb]
      have h : a + b ≤ (a + 1) * b := by rw [Nat.add_mul, Nat.one_mul]; exact Nat.add_le_add_right (Nat.le_mul_of_pos_right a hb) b
      omega

@[simp] theorem tilesX_toNat (r : Regs) : (tilesX r).toNat = ceilDiv r.width.toNat r.block.toNat := by
  have h := ceilDiv_le r.width.toNat r.block.toNat
  unfold tilesX
  rw [BitVec.toNat_ofNat, Nat.mod_eq_of_lt (by omega)]

@[simp] theorem tilesY_toNat (r : Regs) : (tilesY r).toNat = ceilDiv r.height.toNat r.block.toNat := by
  have h := ceilDiv_le r.height.toNat r.block.toNat
  unfold tilesY
  rw [BitVec.toNat_ofNat, Nat.mod_eq_of_lt (by omega)]

theorem tilesWord_toNat (r : Regs) :
    (tilesWord r).toNat = ceilDiv r.height.toNat r.block.toNat * 2 ^ 16 + ceilDiv r.width.toNat r.block.toNat := by
  unfold tilesWord
  rw [toNat_append_eq, tilesX_toNat, tilesY_toNat]

/-- TX in its half of the word. -/
theorem tilesWord_mod (r : Regs) : (tilesWord r).toNat % 65536 = ceilDiv r.width.toNat r.block.toNat := by
  have h := ceilDiv_le r.width.toNat r.block.toNat
  have h2 : (2 : Nat) ^ 16 = 65536 := rfl
  rw [tilesWord_toNat, h2]
  omega

/-- TY in its half of the word. -/
theorem tilesWord_div (r : Regs) : (tilesWord r).toNat / 65536 = ceilDiv r.height.toNat r.block.toNat := by
  have h := ceilDiv_le r.width.toNat r.block.toNat
  have h2 : (2 : Nat) ^ 16 = 65536 := rfl
  rw [tilesWord_toNat, h2]
  omega

/-- A column or a row lies below the number of tiles exactly where its tile begins inside the image. -/
theorem lt_ceilDiv_iff (a b k : Nat) (hb : 1 ≤ b) : k < ceilDiv a b ↔ k * b < a := by
  unfold ceilDiv
  rw [Nat.lt_div_iff_mul_lt (by omega)]
  have h : b * k = k * b := Nat.mul_comm b k
  omega

/-! ## Operands -/

theorem dimOperand_toNat (data : Word) : (dimOperand data).toNat = data.toNat % 65536 := by
  simp [dimOperand]

theorem channelsOperand_toNat (data : Word) : (channelsOperand data).toNat = data.toNat % 256 := by
  simp [channelsOperand]

/-- The BLOCK operand is the signed word clamped into 1..256. -/
theorem blockOperand_toNat (data : Word) : ((blockOperand data).toNat : Int) = min (max data.toInt 1) 256 := by
  unfold blockOperand sext32 Config.blockMin Config.blockMax
  rw [BitVec.toNat_ofInt]
  have h1 : (1 : Int) ≤ min (max data.toInt 1) 256 := by omega
  have h2 : min (max data.toInt 1) 256 ≤ (256 : Int) := by omega
  omega

theorem blockOperand_legal (data : Word) : 1 ≤ (blockOperand data).toNat ∧ (blockOperand data).toNat ≤ 256 := by
  have h := blockOperand_toNat data
  omega

end Sys2Proof.Machine
end

