-- ==== Sys2Proof/Laws/PerInstr.lean ====
section
/-! SUPPORT. One lemma per instruction: decoding the encoding of a well-formed instruction gives it back. -/

namespace Sys2Proof.Laws

open Sys2Proof

/-- Decoding the encoding of the instruction gives it back, where an encoding for it exists. -/
def DecodeOfEncode.Statement (i : Instr) : Prop := i.wf = true → decode (encode i) = i

theorem DecodeOfEncode.rdId : DecodeOfEncode.Statement .rdId := fun _ => by decide

theorem DecodeOfEncode.rdCtrl : DecodeOfEncode.Statement .rdCtrl := fun _ => by decide

theorem DecodeOfEncode.rdCmd : DecodeOfEncode.Statement .rdCmd := fun _ => by decide

theorem DecodeOfEncode.rdStatus : DecodeOfEncode.Statement .rdStatus := fun _ => by decide

theorem DecodeOfEncode.rdFormat : DecodeOfEncode.Statement .rdFormat := fun _ => by decide

theorem DecodeOfEncode.rdWidth : DecodeOfEncode.Statement .rdWidth := fun _ => by decide

theorem DecodeOfEncode.rdHeight : DecodeOfEncode.Statement .rdHeight := fun _ => by decide

theorem DecodeOfEncode.rdBlock : DecodeOfEncode.Statement .rdBlock := fun _ => by decide

theorem DecodeOfEncode.rdSrcBase : DecodeOfEncode.Statement .rdSrcBase := fun _ => by decide

theorem DecodeOfEncode.rdSrcStride : DecodeOfEncode.Statement .rdSrcStride := fun _ => by decide

theorem DecodeOfEncode.rdDstBase : DecodeOfEncode.Statement .rdDstBase := fun _ => by decide

theorem DecodeOfEncode.rdDstStride : DecodeOfEncode.Statement .rdDstStride := fun _ => by decide

theorem DecodeOfEncode.rdTiles : DecodeOfEncode.Statement .rdTiles := fun _ => by decide

theorem DecodeOfEncode.rdProgress : DecodeOfEncode.Statement .rdProgress := fun _ => by decide

theorem DecodeOfEncode.rdErrAddr : DecodeOfEncode.Statement .rdErrAddr := fun _ => by decide

theorem DecodeOfEncode.rdRsvd (off : BitVec 8) : DecodeOfEncode.Statement (.rdRsvd off) := fun h => decode_readKey_reserved off h

theorem DecodeOfEncode.wrId (data : Word) : DecodeOfEncode.Statement (.wrId data) := fun _ => rfl

theorem DecodeOfEncode.wrCtrl (data : Word) : DecodeOfEncode.Statement (.wrCtrl data) := fun _ => rfl

theorem DecodeOfEncode.wrCmd (data : Word) : DecodeOfEncode.Statement (.wrCmd data) := fun _ => rfl

theorem DecodeOfEncode.wrStatus (data : Word) : DecodeOfEncode.Statement (.wrStatus data) := fun _ => rfl

theorem DecodeOfEncode.wrFormat (data : Word) : DecodeOfEncode.Statement (.wrFormat data) := fun _ => rfl

theorem DecodeOfEncode.wrWidth (data : Word) : DecodeOfEncode.Statement (.wrWidth data) := fun _ => rfl

theorem DecodeOfEncode.wrHeight (data : Word) : DecodeOfEncode.Statement (.wrHeight data) := fun _ => rfl

theorem DecodeOfEncode.wrBlock (data : Word) : DecodeOfEncode.Statement (.wrBlock data) := fun _ => rfl

theorem DecodeOfEncode.wrSrcBase (data : Word) : DecodeOfEncode.Statement (.wrSrcBase data) := fun _ => rfl

theorem DecodeOfEncode.wrSrcStride (data : Word) : DecodeOfEncode.Statement (.wrSrcStride data) := fun _ => rfl

theorem DecodeOfEncode.wrDstBase (data : Word) : DecodeOfEncode.Statement (.wrDstBase data) := fun _ => rfl

theorem DecodeOfEncode.wrDstStride (data : Word) : DecodeOfEncode.Statement (.wrDstStride data) := fun _ => rfl

theorem DecodeOfEncode.wrTiles (data : Word) : DecodeOfEncode.Statement (.wrTiles data) := fun _ => rfl

theorem DecodeOfEncode.wrProgress (data : Word) : DecodeOfEncode.Statement (.wrProgress data) := fun _ => rfl

theorem DecodeOfEncode.wrErrAddr (data : Word) : DecodeOfEncode.Statement (.wrErrAddr data) := fun _ => rfl

theorem DecodeOfEncode.wrRsvd (off : BitVec 8) (data : Word) : DecodeOfEncode.Statement (.wrRsvd off data) :=
  fun h => decode_writeKey_reserved off data h

theorem DecodeOfEncode.accIllegal (size : AccSize) (wr : Bool) (off : BitVec 8) : DecodeOfEncode.Statement (.accIllegal size wr off) :=
  fun h => decode_makeKey_illegal size wr off h

theorem DecodeOfEncode.nop : DecodeOfEncode.Statement .nop := fun _ => by decide

theorem DecodeOfEncode.start : DecodeOfEncode.Statement .start := fun _ => by decide

theorem DecodeOfEncode.abort : DecodeOfEncode.Statement .abort := fun _ => by decide

theorem DecodeOfEncode.softReset : DecodeOfEncode.Statement .softReset := fun _ => by decide

theorem DecodeOfEncode.cmdReserved (word : Word) : DecodeOfEncode.Statement (.cmdReserved word) := fun h => decode_reserved_command word h

end Sys2Proof.Laws
end

