-- ==== Sys2Proof/Laws/Platform.lean ====
section
/-! SUPPORT. What the shared operations of the commands and of the platform can do, said once. -/

namespace Sys2Proof.Machine

open Sys2Proof

/-- START on an IDLE block begins the job that it latched, or refuses it with the code of the first check that fails. -/
theorem startIdle_cases (s : State) :
    (startCheck s.regs.channels (latchJob s.regs) = .none ∧
        startIdle s = { latchForStart s with cursor := ⟨0#16, 0#16⟩, phase := .busy }) ∨
      (startCheck s.regs.channels (latchJob s.regs) ≠ .none ∧
        startIdle s = raiseError (startCheck s.regs.channels (latchJob s.regs)) 0#32 (latchForStart s)) := by
  have h : ∀ code, startCheck (latchForStart s).regs.channels (latchForStart s).job = code →
      startCheck s.regs.channels (latchJob s.regs) = code := fun _ h => h
  unfold startIdle
  cases hc : startCheck (latchForStart s).regs.channels (latchForStart s).job <;> simp [h _ hc]

/-- `irqSeen` marks the newest record where irq rises, and changes nothing else. -/
theorem irqSeen_cases (before after : State) :
    (before.irq = false ∧ after.irq = true ∧ irqSeen before after =
        { after with unsynced := markVisible (bytesWritten before.job before.cursor after.regs) after.unsynced }) ∨
      ((before.irq = true ∨ after.irq = false) ∧ irqSeen before after = after) := by
  unfold irqSeen
  cases before.irq <;> cases after.irq <;> simp

/-- `settle` leaves the registers, the engine, the gaps, the response and the actions to come. -/
theorem settle_frame (before after : State) :
    (settle before after).regs = after.regs ∧ (settle before after).job = after.job ∧
      (settle before after).phase = after.phase ∧ (settle before after).cursor = after.cursor ∧
      (settle before after).acc = after.acc ∧ (settle before after).busGaps = after.busGaps ∧
      (settle before after).response = after.response ∧ (settle before after).hostByte = after.hostByte ∧
      (settle before after).inputs = after.inputs := by
  unfold settle
  split
  · unfold irqSeen jobEnded
    split <;> split <;> simp
  · simp
  · simp
  · simp

/-- Memory after `settle` is memory before it, but for the destination bytes of a raced job that ended. -/
theorem settle_mem (before after : State) :
    (settle before after).mem = after.mem ∨
      (before.phase = .busy ∧ after.phase = .idle ∧ before.raced = true ∧
        (settle before after).mem = scramble after.mem before.job.allDst after.draws) := by
  unfold settle
  split
  · rename_i hb ha
    have seen : ∀ t : State, (irqSeen before t).mem = t.mem := by
      intro t
      unfold irqSeen
      split <;> rfl
    rw [seen]
    unfold jobEnded
    split
    · exact .inr ⟨hb, ha, ‹_›, rfl⟩
    · exact .inl rfl
  · exact .inl rfl
  · exact .inl rfl
  · exact .inl rfl

/-- `settle` keeps the canonical form of memory. -/
theorem wf_settle (before after : State) (h : Memory.wf after.mem = true) : Memory.wf (settle before after).mem = true := by
  rcases settle_mem before after with e | ⟨-, -, -, e⟩
  · rw [e]; exact h
  · rw [e]; exact wf_scramble _ _ _ h

/-- Where the phase stays, `settle` changes nothing. -/
theorem settle_same_phase (before after : State) (h : after.phase = before.phase) : settle before after = after := by
  unfold settle
  rw [h]
  cases before.phase <;> rfl

/-- Where irq rises in the step that ends a job, the newest record is marked with the writes of that job. -/
theorem settle_irq_rises (before after : State) (hb : before.phase = .busy) (ha : after.phase = .idle)
    (hi : before.irq = false) (hr : after.irq = true) :
    (settle before after).unsynced = markVisible (bytesWritten before.job before.cursor after.regs) after.unsynced := by
  have ended : (jobEnded before.job before.raced after).regs = after.regs ∧
      (jobEnded before.job before.raced after).unsynced = after.unsynced := by
    unfold jobEnded
    split <;> simp
  unfold settle
  rw [hb, ha]
  simp [irqSeen, State.irq, ended] at hi hr ⊢
  simp [hi, hr]

@[simp] theorem settleOutcome_next (before after : State) :
    settleOutcome before (.next after) = .next (settle before after) := rfl

/-- Hardware reset keeps the canonical form of memory. -/
theorem wf_hardReset (s : State) (h : Memory.wf s.mem = true) : Memory.wf (hardReset s).mem = true := by
  unfold hardReset
  split
  · exact h
  · exact wf_scramble _ _ _ h

/-- Hardware reset leaves the registers at their reset values and the engine in IDLE, and leaves the rest of the platform. -/
theorem hardReset_frame (s : State) :
    (hardReset s).regs = Regs.reset ∧ (hardReset s).phase = .idle ∧ (hardReset s).acc = s.acc ∧
      (hardReset s).busGaps = s.busGaps ∧ (hardReset s).response = s.response ∧ (hardReset s).hostByte = s.hostByte ∧
      (hardReset s).inputs = s.inputs ∧ (hardReset s).raced = s.raced ∧ (hardReset s).unsynced = s.unsynced := by
  unfold hardReset
  split <;> simp [scrambleState, resetBlock]

/-- Hardware reset leaves memory, but for free bytes at the tile of a running job's cursor. -/
theorem hardReset_mem (s : State) :
    (s.phase = .idle ∧ (hardReset s).mem = s.mem) ∨
      (s.phase = .busy ∧ (hardReset s).mem =
        scramble s.mem (s.job.tileDst s.cursor.cbx.toNat s.cursor.cby.toNat) (s.draws + 12)) := by
  unfold hardReset
  split
  · exact .inl ⟨‹_›, rfl⟩
  · exact .inr ⟨‹_›, rfl⟩

/-- A memory write of an agent leaves the block, and marks the job where it falls into its ranges. -/
theorem hostWrite_frame (addr : Word) (value : Byte) (s : State) :
    (hostWrite addr value s).mem = Memory.write s.mem addr.toNat value ∧ (hostWrite addr value s).regs = s.regs ∧
      (hostWrite addr value s).job = s.job ∧ (hostWrite addr value s).phase = s.phase ∧
      (hostWrite addr value s).cursor = s.cursor ∧ (hostWrite addr value s).acc = s.acc ∧
      (hostWrite addr value s).busGaps = s.busGaps ∧ (hostWrite addr value s).response = s.response ∧
      (hostWrite addr value s).hostByte = s.hostByte ∧ (hostWrite addr value s).inputs = s.inputs ∧
      (hostWrite addr value s).draws = s.draws ∧
      (hostWrite addr value s).raced = (s.raced || (s.phase.isBusy && s.job.inRanges addr.toNat)) := by
  unfold hostWrite
  cases h : s.phase <;> cases h2 : s.job.inRanges addr.toNat <;> simp [Phase.isBusy]

/-- A memory read of the host returns the byte that memory holds, or the early value of a job it has not seen the end of. -/
theorem hostRead_cases (addr : Word) (s : State) :
    (earlyRead s.mem s.unsynced addr.toNat s.draws = none ∧
        hostRead addr s = { s with hostByte := Memory.read s.mem addr.toNat }) ∨
      ∃ v, earlyRead s.mem s.unsynced addr.toNat s.draws = some v ∧
        hostRead addr s = { s with hostByte := v, draws := s.draws + 1 } := by
  unfold hostRead
  cases h : earlyRead s.mem s.unsynced addr.toNat s.draws with
  | none => exact .inl ⟨rfl, rfl⟩
  | some v => exact .inr ⟨v, rfl, rfl⟩

/-- An early value comes from the newest unseen job that writes the byte, unless irq has made that write visible. -/
theorem earlyRead_cases (mem : Memory) (records : List JobRecord) (a n : Nat) :
    (earlyRead mem records a n = none ∧ ∀ r ∈ records, r.job.dstSample a = none) ∨
      ∃ newer r older d, records = newer ++ r :: older ∧ (∀ x ∈ newer, x.job.dstSample a = none) ∧
        r.job.dstSample a = some d ∧
        earlyRead mem records a n = if r.job.dstIndex d < r.visible then none else some (earlyByte mem r d n) := by
  induction records with
  | nil => exact .inl ⟨rfl, by simp⟩
  | cons r rest ih =>
    cases h : r.job.dstSample a with
    | some d => exact .inr ⟨[], r, rest, d, rfl, by simp, h, by simp [earlyRead, h]⟩
    | none =>
      have e : earlyRead mem (r :: rest) a n = earlyRead mem rest a n := by simp [earlyRead, h]
      rcases ih with ⟨h1, h2⟩ | ⟨newer, x, older, d, h1, h2, h3, h4⟩
      · refine .inl ⟨by rw [e, h1], ?_⟩
        intro x hx
        rcases List.mem_cons.1 hx with rfl | hx
        · exact h
        · exact h2 x hx
      · refine .inr ⟨r :: newer, x, older, d, by rw [h1]; rfl, ?_, h3, by rw [e, h4]⟩
        intro y hy
        rcases List.mem_cons.1 hy with rfl | hy
        · exact h
        · exact h2 y hy

/-- A poll puts the loop back where it found BUSY = 1, and changes nothing else. -/
theorem pollAgain_cases (s : State) :
    (s.response.rdata.getLsbD 0 = true ∧ pollAgain s = { s with inputs := .engine :: .wait :: s.inputs }) ∨
      (s.response.rdata.getLsbD 0 = false ∧ pollAgain s = s) := by
  unfold pollAgain
  cases h : s.response.rdata.getLsbD 0 <;> simp

/-- A memory write of an agent keeps the canonical form. -/
theorem wf_hostWrite (addr : Word) (value : Byte) (s : State) (h : Memory.wf s.mem = true) :
    Memory.wf (hostWrite addr value s).mem = true := by
  unfold hostWrite
  split
  · exact wf_write _ h _ _
  · split <;> exact wf_write _ h _ _

/-- A tile step keeps the canonical form of memory. -/
theorem wf_processTile (s : State) (h : Memory.wf s.mem = true) : Memory.wf (processTile s).mem = true := by
  rcases processTile_cases s with ⟨_, _, _, _, -, -, -, e⟩ | ⟨-, before, _, _, _, -, -, -, e⟩ | ⟨-, -, e⟩
  · rw [e]; exact h
  · rw [e]; exact wf_writeAll before s.mem h
  · have hw := wf_writeAll s.curWrites s.mem h
    rw [e]
    rcases advance_cases { s with acc := s.curAcc, mem := writeAll s.curWrites s.mem } with
      ⟨-, e2⟩ | ⟨-, -, e2⟩ | ⟨-, -, e2⟩ <;> rw [e2] <;> exact hw

end Sys2Proof.Machine
end

