-- ==== Sys2Proof/Laws/Tiles.lean ====
section
/-! SUPPORT. What the checks of START say, which pixels, reads and writes a tile has, and what the accumulators hold. -/

namespace Sys2Proof.Machine

open Sys2Proof

/-! ## The checks of START -/

theorem badInput_false_iff (channels : BitVec 8) (j : Job) :
    badInput channels j = false ↔ channels = Config.channels ∧ 1 ≤ j.w.toNat ∧ 1 ≤ j.h.toNat := by
  have h : ∀ d : Dim, d ≠ 0#16 ↔ 1 ≤ d.toNat := by
    intro d
    rw [Ne, ← BitVec.toNat_inj, BitVec.toNat_ofNat]
    omega
  simp only [badInput, Bool.or_eq_false_iff, bne_eq_false_iff_eq, beq_eq_false_iff_ne, h, and_assoc]

theorem badStride_false_iff (j : Job) :
    badStride j = false ↔ 3 * j.w.toNat ≤ j.ss.toNat ∧ 3 * j.tx.toNat ≤ j.ds.toNat := by
  simp [badStride]

theorem badRange_false_iff (j : Job) :
    badRange j = false ↔ j.srcLast < Config.memSize ∧ j.dstLast < Config.memSize := by
  simp [badRange]

theorem badOverlap_false_iff (j : Job) : badOverlap j = false ↔ j.dstLast < j.srcFirst ∨ j.srcLast < j.dstFirst := by
  simp [badOverlap]
  omega

/-- START's checks pass exactly where all four conditions of 41_commands.md R104 are false. -/
theorem startCheck_none_iff (channels : BitVec 8) (j : Job) :
    startCheck channels j = .none ↔
      (channels = Config.channels ∧ 1 ≤ j.w.toNat ∧ 1 ≤ j.h.toNat) ∧
        (3 * j.w.toNat ≤ j.ss.toNat ∧ 3 * j.tx.toNat ≤ j.ds.toNat) ∧
        (j.srcLast < Config.memSize ∧ j.dstLast < Config.memSize) ∧ (j.dstLast < j.srcFirst ∨ j.srcLast < j.dstFirst) := by
  rw [← badInput_false_iff, ← badStride_false_iff, ← badRange_false_iff, ← badOverlap_false_iff]
  unfold startCheck
  cases badInput channels j <;> cases badStride j <;> cases badRange j <;> cases badOverlap j <;> decide

/-! ## Pixels, reads and writes -/

/-- A tile of the job, by its column and row. -/
theorem mem_tiles (j : Job) (col row : Nat) : (col, row) ∈ j.tiles ↔ col < j.tx.toNat ∧ row < j.ty.toNat := by
  simp [Job.tiles]
  tauto

/-- A pixel of a tile lies between the tile's bounds. -/
theorem mem_tilePixels (j : Job) (col row x y : Nat) :
    (x, y) ∈ j.tilePixels col row ↔ (j.x0 col ≤ x ∧ x < j.x1 col) ∧ j.y0 row ≤ y ∧ y < j.y1 row := by
  simp only [Job.tilePixels, List.mem_flatMap, List.mem_map, List.mem_range'_1, Prod.mk.injEq]
  constructor
  · rintro ⟨y', h1, x', h2, rfl, rfl⟩
    omega
  · rintro ⟨h1, h2⟩
    exact ⟨y, by omega, x, by omega, rfl, rfl⟩

/-- A tile has as many pixels as its count says. -/
theorem length_tilePixels (j : Job) (col row : Nat) : (j.tilePixels col row).length = j.tileCount col row := by
  simp [Job.tilePixels, Job.tileCount, List.length_flatMap, Nat.mul_comm]

/-- A read of a tile is of a channel of one of its pixels. -/
theorem mem_tileReads (j : Job) (col row : Nat) (c : Fin 3) (a : Nat) :
    (c, a) ∈ j.tileReads col row ↔ ∃ p ∈ j.tilePixels col row, a = j.srcAddr p.1 p.2 c.val := by
  simp only [Job.tileReads, List.mem_flatMap, List.mem_cons, Prod.mk.injEq, List.not_mem_nil, or_false]
  constructor
  · rintro ⟨p, hp, h⟩
    refine ⟨p, hp, ?_⟩
    rcases h with ⟨rfl, rfl⟩ | ⟨rfl, rfl⟩ | ⟨rfl, rfl⟩ <;> rfl
  · rintro ⟨p, hp, rfl⟩
    refine ⟨p, hp, ?_⟩
    fin_cases c <;> simp

/-- A tile is at most a block wide and a block high. -/
theorem tileCount_le (j : Job) (col row : Nat) : j.tileCount col row ≤ j.b.toNat * j.b.toNat := by
  unfold Job.tileCount
  have h1 : j.x1 col - j.x0 col ≤ j.b.toNat := by unfold Job.x1; omega
  have h2 : j.y1 row - j.y0 row ≤ j.b.toNat := by unfold Job.y1; omega
  exact Nat.mul_le_mul h1 h2

/-- A tile that begins inside the image holds a pixel. -/
theorem tileCount_pos (j : Job) (col row : Nat) (hb : 1 ≤ j.b.toNat) (hx : j.x0 col < j.w.toNat)
    (hy : j.y0 row < j.h.toNat) : 0 < j.tileCount col row := by
  unfold Job.tileCount
  refine Nat.mul_pos ?_ ?_
  · unfold Job.x1
    omega
  · unfold Job.y1
    omega

/-! ## Accumulators -/

@[simp] theorem add_cnt (acc : Accumulators) (c : Fin 3) (v : Byte) : (acc.add c v).cnt = acc.cnt := by
  unfold Accumulators.add
  split
  · rfl
  · split <;> rfl

/-- A sample is added to the sum of its channel and to no other. -/
theorem add_sum (acc : Accumulators) (c d : Fin 3) (v : Byte) :
    (acc.add c v).sum d = if d = c then acc.sum d + v.zeroExtend 24 else acc.sum d := by
  fin_cases c <;> fin_cases d <;> simp [Accumulators.add, Accumulators.sum]

/-- The sum of the samples of a channel in a list of reads. -/
def readSum (mem : Memory) (reads : List (Fin 3 × Nat)) (c : Fin 3) : Nat :=
  (reads.map fun r => if r.1 = c then (Memory.read mem r.2).toNat else 0).sum

/-- The accumulated sums, each modulo its 24 bits. -/
theorem accumulate_sum (mem : Memory) (reads : List (Fin 3 × Nat)) (acc : Accumulators) (c : Fin 3) :
    ((accumulate mem reads acc).sum c).toNat = ((acc.sum c).toNat + readSum mem reads c) % 2 ^ 24 := by
  induction reads generalizing acc with
  | nil =>
    simp only [accumulate, readSum, List.foldl_nil, List.map_nil, List.sum_nil, Nat.add_zero]
    exact (Nat.mod_eq_of_lt (acc.sum c).isLt).symm
  | cons r rest ih =>
    have h : accumulate mem (r :: rest) acc = accumulate mem rest (acc.add r.1 (Memory.read mem r.2)) := rfl
    rw [h, ih, add_sum]
    have hv := (Memory.read mem r.2).isLt
    by_cases hc : c = r.1
    · rw [if_pos hc]
      simp only [readSum, List.map_cons, List.sum_cons, hc.symm, if_true]
      rw [BitVec.toNat_add]
      simp only [BitVec.truncate_eq_setWidth, BitVec.toNat_setWidth]
      omega
    · rw [if_neg hc]
      have hc' : ¬ r.1 = c := fun e => hc e.symm
      simp only [readSum, List.map_cons, List.sum_cons, hc', if_false]
      omega

@[simp] theorem accumulate_cnt (mem : Memory) (reads : List (Fin 3 × Nat)) (acc : Accumulators) :
    (accumulate mem reads acc).cnt = acc.cnt := by
  induction reads generalizing acc with
  | nil => rfl
  | cons r rest ih =>
    have h : accumulate mem (r :: rest) acc = accumulate mem rest (acc.add r.1 (Memory.read mem r.2)) := rfl
    rw [h, ih, add_cnt]

/-- The reads of a tile hold each channel's samples. -/
theorem readSum_tileReads (mem : Memory) (j : Job) (col row : Nat) (c : Fin 3) :
    readSum mem (j.tileReads col row) c =
      ((j.tilePixels col row).map fun p => (Memory.read mem (j.srcAddr p.1 p.2 c.val)).toNat).sum := by
  unfold Job.tileReads readSum
  induction j.tilePixels col row with
  | nil => rfl
  | cons p rest ih =>
    rw [List.flatMap_cons, List.map_append, List.sum_append, ih]
    fin_cases c <;> simp

end Sys2Proof.Machine
end

