-- ==== Sys2Proof/Tests/Slice0.lean ====
section
/-! SUPPORT. The model's own tests: the smoke test of `WellFormed`, words written out from the spec's encodings, one-step
vectors of 95_test_vectors.md, and for every statement with hypotheses a state and operands that meet them. -/

namespace Sys2Proof.Tests

open Sys2Proof Sys2Proof.Machine

/-! ## Helpers -/

/-- The state after an outcome, where there is one. -/
def reached (out : Host.Outcome State Fault Refusal) : Option State :=
  match out with
  | .next t => some t
  | .fault _ => none
  | .refused _ => none

/-- A field of the state that an instruction leads to. -/
def after {α : Type} (i : Instr) (s : State) (field : State → α) : Option α := (reached (exec i s)).map field

/-- A field of the state that the next step leads to. -/
def stepped {α : Type} (s : State) (field : State → α) : Option α := (reached (step s)).map field

/-- STATUS as the host would read it. -/
def statusOf (s : State) : Word := statusWord s.phase s.regs

/-- The word of the last response. -/
def dataOf (s : State) : Word := s.response.rdata

/-- A byte of memory. -/
def byteAt (a : Nat) (s : State) : Byte := Memory.read s.mem a

/-- A state after reset with some other registers. -/
def withRegs (r : Regs) : State := { State.reset with regs := r }

/-- A state with some actions pending. -/
def pending (actions : List Action) (s : State) : State := { s with inputs := actions }

/-- A state with some bus gaps. -/
def gapped (gaps : List BusGap) (s : State) : State := { s with busGaps := gaps }

/-- Registers programmed for a job of one row: 3 pixels in blocks of 2, source at 0x100, Tile Grid at 0x200. -/
def rowRegs : Regs :=
  { Regs.reset with
    width := 3#16, height := 1#16, block := 2#9, srcBase := 0x100#32, srcStride := 9#32, dstBase := 0x200#32,
    dstStride := 6#32 }

/-- Its nine samples. -/
def rowMem : Memory :=
  [(0x100, 1#8), (0x101, 2#8), (0x102, 3#8), (0x103, 4#8), (0x104, 5#8), (0x105, 6#8), (0x106, 7#8), (0x107, 8#8),
   (0x108, 9#8)]

/-- The job programmed and not yet started. -/
def rowIdle : State := { withRegs rowRegs with mem := rowMem }

/-- The job at its first tile. -/
def rowBusy : State := { rowIdle with job := latchJob rowRegs, phase := .busy }

/-- The job at its second and last tile, the first one written: the means of (1, 4), (2, 5) and (3, 6), ties going up. -/
def rowLast : State :=
  { rowBusy with
    cursor := ⟨1#16, 0#16⟩
    regs := { rowRegs with progress := 1#32 }
    mem := rowMem ++ [(0x200, 3#8), (0x201, 4#8), (0x202, 5#8)] }

/-- The job at its last tile, raced by another agent. -/
def rowRaced : State := { rowLast with raced := true }

/-- The record of the job. -/
def rowRecord : JobRecord := ⟨latchJob rowRegs, rowMem, false, 0⟩

/-! ## The operand checks refuse ill-formed terms -/

theorem test_wf_refuses_a_named_offset_as_reserved : (Instr.rdRsvd 0x38#8).wf = false := by decide
theorem test_wf_refuses_a_misaligned_offset_as_reserved : (Instr.rdRsvd 0x3D#8).wf = false := by decide
theorem test_wf_refuses_a_reserved_write_of_a_named_offset : (Instr.wrRsvd 0x00#8 1#32).wf = false := by decide
theorem test_wf_refuses_a_legal_access_as_illegal : (Instr.accIllegal .word true 0x08#8).wf = false := by decide
theorem test_wf_refuses_a_command_as_reserved : (Instr.cmdReserved 3#32).wf = false := by decide
theorem test_wf_takes_the_edges : (Instr.rdRsvd 0x3C#8).wf = true ∧ (Instr.wrRsvd 0xFC#8 0#32).wf = true ∧
    (Instr.accIllegal .word false 0x09#8).wf = true ∧ (Instr.accIllegal .reserved true 0x08#8).wf = true ∧
    (Instr.cmdReserved 4#32).wf = true ∧ (Instr.cmdReserved 0x10#32).wf = true := by decide

/-! ## Words written out from 30_encoding.md R63 and R64 -/

/-- SIZE = 10, WR = 0, then the offset. -/
theorem test_decode_reads : decode (.tx 0b10000000000#11 0#32) = .rdId ∧ decode (.tx 0b10000000100#11 0#32) = .rdCtrl ∧
    decode (.tx 0b10000001000#11 0#32) = .rdCmd ∧ decode (.tx 0b10000001100#11 0#32) = .rdStatus ∧
    decode (.tx 0b10000010000#11 0#32) = .rdFormat ∧ decode (.tx 0b10000010100#11 0#32) = .rdWidth ∧
    decode (.tx 0b10000011000#11 0#32) = .rdHeight ∧ decode (.tx 0b10000011100#11 0#32) = .rdBlock ∧
    decode (.tx 0b10000100000#11 0#32) = .rdSrcBase ∧ decode (.tx 0b10000100100#11 0#32) = .rdSrcStride ∧
    decode (.tx 0b10000101000#11 0#32) = .rdDstBase ∧ decode (.tx 0b10000101100#11 0#32) = .rdDstStride ∧
    decode (.tx 0b10000110000#11 0#32) = .rdTiles ∧ decode (.tx 0b10000110100#11 0#32) = .rdProgress ∧
    decode (.tx 0b10000111000#11 0#32) = .rdErrAddr := by decide

/-- SIZE = 10, WR = 1, then the offset. -/
theorem test_decode_writes : decode (.tx 0b10100000000#11 7#32) = .wrId 7#32 ∧
    decode (.tx 0b10100000100#11 7#32) = .wrCtrl 7#32 ∧ decode (.tx 0b10100001000#11 7#32) = .wrCmd 7#32 ∧
    decode (.tx 0b10100001100#11 7#32) = .wrStatus 7#32 ∧ decode (.tx 0b10100010000#11 7#32) = .wrFormat 7#32 ∧
    decode (.tx 0b10100010100#11 7#32) = .wrWidth 7#32 ∧ decode (.tx 0b10100011000#11 7#32) = .wrHeight 7#32 ∧
    decode (.tx 0b10100011100#11 7#32) = .wrBlock 7#32 ∧ decode (.tx 0b10100100000#11 7#32) = .wrSrcBase 7#32 ∧
    decode (.tx 0b10100100100#11 7#32) = .wrSrcStride 7#32 ∧ decode (.tx 0b10100101000#11 7#32) = .wrDstBase 7#32 ∧
    decode (.tx 0b10100101100#11 7#32) = .wrDstStride 7#32 ∧ decode (.tx 0b10100110000#11 7#32) = .wrTiles 7#32 ∧
    decode (.tx 0b10100110100#11 7#32) = .wrProgress 7#32 ∧ decode (.tx 0b10100111000#11 7#32) = .wrErrAddr 7#32 := by
  decide

/-- The first and the last reserved word offset. -/
theorem test_decode_reserved : decode (.tx 0b10000111100#11 0#32) = .rdRsvd 0x3C#8 ∧
    decode (.tx 0b10011111100#11 0#32) = .rdRsvd 0xFC#8 ∧ decode (.tx 0b10100111100#11 7#32) = .wrRsvd 0x3C#8 7#32 ∧
    decode (.tx 0b10111111100#11 7#32) = .wrRsvd 0xFC#8 7#32 := by decide

/-- A byte, a halfword, a reserved size and the three misaligned words. -/
theorem test_decode_illegal : decode (.tx 0b00000001100#11 0#32) = .accIllegal .byte false 0x0C#8 ∧
    decode (.tx 0b00100001000#11 1#32) = .accIllegal .byte true 0x08#8 ∧
    decode (.tx 0b01000001100#11 0#32) = .accIllegal .half false 0x0C#8 ∧
    decode (.tx 0b11000000000#11 0#32) = .accIllegal .reserved false 0x00#8 ∧
    decode (.tx 0b10000000001#11 0#32) = .accIllegal .word false 0x01#8 ∧
    decode (.tx 0b10000000010#11 0#32) = .accIllegal .word false 0x02#8 ∧
    decode (.tx 0b10100001011#11 0#32) = .accIllegal .word true 0x0B#8 := by decide

/-- OP and MBZ. -/
theorem test_decode_commands : decode (.cmd 0x00000000#32) = .nop ∧ decode (.cmd 0x00000001#32) = .start ∧
    decode (.cmd 0x00000002#32) = .abort ∧ decode (.cmd 0x00000003#32) = .softReset ∧
    decode (.cmd 0x00000004#32) = .cmdReserved 4#32 ∧ decode (.cmd 0x00000011#32) = .cmdReserved 0x11#32 ∧
    decode (.cmd 0x80000001#32) = .cmdReserved 0x80000001#32 := by decide

/-! ## Reads (L2-4, L2-3) -/

theorem test_rdId : after .rdId State.reset dataOf = some 0x42520100#32 := by decide
theorem test_rdCtrl : after .rdCtrl (withRegs { Regs.reset with rnd := true, ieErr := true }) dataOf = some 0xA#32 := by
  decide
theorem test_rdCmd : after .rdCmd rowBusy dataOf = some 0#32 := by decide

/-- R76's example. -/
theorem test_rdStatus : after .rdStatus (withRegs { Regs.reset with ieErr := true, err := true, errCode := .busRead }) dataOf
    = some 0x514#32 := by decide

theorem test_rdFormat : after .rdFormat State.reset dataOf = some 3#32 := by decide
theorem test_rdWidth : after .rdWidth (withRegs { Regs.reset with width := 0xABCD#16 }) dataOf = some 0xABCD#32 := by decide
theorem test_rdHeight : after .rdHeight (withRegs { Regs.reset with height := 0x8001#16 }) dataOf = some 0x8001#32 := by
  decide
theorem test_rdBlock : after .rdBlock (withRegs { Regs.reset with block := 256#9 }) dataOf = some 256#32 := by decide
theorem test_rdSrcBase : after .rdSrcBase rowIdle dataOf = some 0x100#32 := by decide
theorem test_rdSrcStride : after .rdSrcStride rowIdle dataOf = some 9#32 := by decide
theorem test_rdDstBase : after .rdDstBase rowIdle dataOf = some 0x200#32 := by decide
theorem test_rdDstStride : after .rdDstStride rowIdle dataOf = some 6#32 := by decide

theorem test_rdTiles : after .rdTiles (withRegs { Regs.reset with width := 17#16, height := 5#16, block := 8#9 }) dataOf
    = some 0x00010003#32 := by decide
theorem test_rdTiles_largest : after .rdTiles (withRegs { Regs.reset with width := 0xFFFF#16, height := 0xFFFF#16 }) dataOf
    = some 0xFFFFFFFF#32 := by decide

theorem test_rdProgress : after .rdProgress rowLast dataOf = some 1#32 := by decide
theorem test_rdErrAddr : after .rdErrAddr (withRegs { Regs.reset with errAddr := 0x1017#32 }) dataOf = some 0x1017#32 := by
  decide
theorem test_rdRsvd : after (.rdRsvd 0x80#8) rowBusy dataOf = some 0#32 := by decide

/-! ## Writes (L2-2, L2-3, L2-4) -/

theorem test_wrId : after (.wrId 0#32) State.reset State.regs = some Regs.reset := by decide
theorem test_wrCtrl : after (.wrCtrl 0xFFFFFFFF#32) State.reset (fun t => ctrlWord t.regs) = some 0xF#32 := by decide

/-- An enable set after the fact raises irq (L2-8). -/
theorem test_wrCtrl_raises_irq : after (.wrCtrl 1#32) (withRegs { Regs.reset with done := true }) State.irq = some true := by
  decide

theorem test_wrCmd_starts : after (.wrCmd 1#32) rowIdle statusOf = some 1#32 := by decide
theorem test_wrCmd_reserved : after (.wrCmd 0x10#32) State.reset statusOf = some 0x2008#32 := by decide

theorem test_wrStatus_clears : after (.wrStatus 4#32)
    (withRegs { Regs.reset with ieErr := true, err := true, errCode := .busRead, errAddr := 0x1017#32 })
    (fun t => (statusOf t, t.regs.errAddr)) = some (0#32, 0x1017#32) := by decide
theorem test_wrStatus_keeps : after (.wrStatus 1#32)
    (withRegs { Regs.reset with done := true, werr := true, werrCode := .illegalCmd }) statusOf = some 0x200A#32 := by decide

theorem test_wrFormat : after (.wrFormat 0x103#32) State.reset (fun t => t.regs.channels) = some 3#8 := by decide
theorem test_wrWidth : after (.wrWidth 0x12345#32) State.reset (fun t => t.regs.width) = some 0x2345#16 := by decide
theorem test_wrHeight : after (.wrHeight 0x10000#32) rowIdle (fun t => t.regs.height) = some 0#16 := by decide

theorem test_wrBlock_low : after (.wrBlock 0x80000000#32) State.reset (fun t => t.regs.block) = some 1#9 ∧
    after (.wrBlock 0#32) rowIdle (fun t => t.regs.block) = some 1#9 ∧
    after (.wrBlock 0xFFFFFF00#32) rowIdle (fun t => t.regs.block) = some 1#9 := by decide
theorem test_wrBlock_high : after (.wrBlock 0x101#32) State.reset (fun t => t.regs.block) = some 256#9 ∧
    after (.wrBlock 0x7FFFFFFF#32) State.reset (fun t => t.regs.block) = some 256#9 ∧
    after (.wrBlock 0xFF#32) State.reset (fun t => t.regs.block) = some 255#9 := by decide

theorem test_wrSrcBase : after (.wrSrcBase 0xFFFFFFFF#32) State.reset (fun t => t.regs.srcBase) = some 0xFFFFFFFF#32 := by
  decide
theorem test_wrSrcStride : after (.wrSrcStride 12#32) State.reset (fun t => t.regs.srcStride) = some 12#32 := by decide
theorem test_wrDstBase : after (.wrDstBase 0x2001#32) State.reset (fun t => t.regs.dstBase) = some 0x2001#32 := by decide
theorem test_wrDstStride : after (.wrDstStride 6#32) State.reset (fun t => t.regs.dstStride) = some 6#32 := by decide
theorem test_wrTiles : after (.wrTiles 5#32) rowBusy State.regs = some rowRegs := by decide
theorem test_wrProgress : after (.wrProgress 5#32) rowBusy State.regs = some rowRegs := by decide
theorem test_wrErrAddr : after (.wrErrAddr 5#32) rowBusy State.regs = some rowRegs := by decide
theorem test_wrRsvd : after (.wrRsvd 0xFC#8 1#32) rowBusy State.regs = some rowRegs := by decide

/-- `wr.b 0x08, 1` does not start a job, and WERR stays 0 (R102). -/
theorem test_accIllegal : after (.accIllegal .byte true 0x08#8) rowIdle (fun t => (t.response, statusOf t))
    = some (⟨.slverr, 0#32⟩, 0#32) := by decide

/-! ## Commands (L2-5) -/

theorem test_nop : after .nop rowLast (fun t => (statusOf t, t.regs.progress)) = some (1#32, 1#32) := by decide

/-- A START after reset is refused: STATUS 0x104 (L1-5). -/
theorem test_start_refused : after .start State.reset statusOf = some 0x104#32 := by decide
theorem test_start_begins : after .start rowIdle (fun t => (statusOf t, t.job.tx, t.job.ty)) = some (1#32, 2#16, 1#16) := by
  decide

/-- P5, line 12. -/
theorem test_abort_running : after .abort { rowLast with regs := { rowRegs with werr := true, werrCode := .startWhileBusy } }
    (fun t => (statusOf t, t.phase)) = some (0x170C#32, .idle) := by decide
theorem test_abort_idle : after .abort rowIdle statusOf = some 0#32 := by decide

theorem test_softReset : after .softReset (withRegs { Regs.reset with width := 7#16, block := 9#9, channels := 5#8 })
    State.regs = some Regs.reset := by decide

theorem test_cmdReserved : after (.cmdReserved 0xF#32) (withRegs { Regs.reset with ieWerr := true }) statusOf
    = some 0x2018#32 := by decide
theorem test_cmdReserved_keeps_the_first_code : after (.cmdReserved 0x11#32)
    (withRegs { Regs.reset with werr := true, werrCode := .startWhileBusy }) statusOf = some 0x1008#32 := by decide

/-! ## The engine and the platform (L2-1, L2-7) -/

theorem test_roundMean : roundMean 1 2 false = 1 ∧ roundMean 1 2 true = 0 ∧ roundMean 5 2 false = 3 ∧ roundMean 5 2 true = 2 ∧
    roundMean 7 2 true = 4 ∧ roundMean 509 2 true = 254 ∧ roundMean 4 3 true = 1 ∧ roundMean 2 3 false = 1 ∧
    roundMean 16711679 65536 false = 255 ∧ roundMean 98304 65536 true = 2 := by decide

/-- The first tile of the row: 5, 7 and 9 over 2, all ties. -/
theorem test_tile_step : (reached (tileStep rowBusy)).map (fun t => (t.mem, t.cursor, t.regs.progress))
    = some (rowLast.mem, ⟨1#16, 0#16⟩, 1#32) := by decide
theorem test_tile_step_half_even :
    (reached (tileStep { rowBusy with job := { rowBusy.job with rnd := true } })).map
      (fun t => (byteAt 0x200 t, byteAt 0x201 t, byteAt 0x202 t)) = some (2#8, 4#8, 4#8) := by decide

/-- A write error at channel 1 keeps the byte before it. -/
theorem test_bus_write : (reached (tileStep { rowBusy with busGaps := [⟨.write, 0x201, 0x201⟩] })).map
    (fun t => (statusOf t, t.regs.errAddr, byteAt 0x200 t, byteAt 0x201 t)) = some (0x604#32, 0x201#32, 3#8, 0#8) := by decide
theorem test_bus_read : (reached (tileStep { rowLast with busGaps := [⟨.read, 0x107, 0x107⟩] })).map
    (fun t => (statusOf t, t.regs.errAddr, t.regs.progress, byteAt 0x203 t)) = some (0x504#32, 0x107#32, 1#32, 0#8) := by
  decide

theorem test_wait_polls : stepped { rowBusy with inputs := [.wait] } State.inputs = some [.engine, .wait] := by decide +kernel

/-- The rise of irq for the end of a job makes the writes of that job visible, and of no older one; ABORT makes those of the
finished tiles visible; without its enable the end stays unseen, and an enable set later orders nothing (R54, R146). -/
theorem test_irq_orders :
    let s := { rowLast with unsynced := [rowRecord, rowRecord], regs := { rowLast.regs with ieDone := true, ieErr := true } }
    stepped s State.unsynced = some [{ rowRecord with visible := 6 }, rowRecord] ∧
      stepped { s with inputs := [.transaction 0x508#11 2#32] } State.unsynced =
        some [{ rowRecord with visible := 3 }, rowRecord] ∧
      stepped { s with regs := rowLast.regs } State.unsynced = some [rowRecord, rowRecord] ∧
      stepped { withRegs { rowRegs with done := true } with
        unsynced := [rowRecord], inputs := [.transaction 0x504#11 1#32] } State.unsynced = some [rowRecord] := by
  decide +kernel

/-- A refused write at channel 1 leaves one byte of the tile visible; the host then reads it as memory holds it. -/
theorem test_irq_bus_write :
    let s := { rowLast with unsynced := [rowRecord], regs := { rowLast.regs with ieErr := true }, busGaps := [⟨.write, 0x204, 0x204⟩] }
    stepped s State.unsynced = some [{ rowRecord with visible := 4 }] ∧
      stepped s (fun t => (hostRead 0x203#32 t).hostByte) = some 7#8 := by decide +kernel

theorem test_script : parseScript "wr BLOCK, -1 ; clamp\n\nrd.h 0x0C\nrun" = some [.wr .block 0xFFFFFFFF#32, .rdAt .half 0x0C#8, .run]
    ∧ parseScript "wr BLOCK 1" = none ∧ parseScript "rd.w 256" = none := by decide +kernel

/-! ## Witnesses: for every statement with hypotheses, what meets them -/

/-- The job over an image of one pixel at the top of memory, its Tile Grid at the bottom. -/
def cornerRegs : Regs :=
  { Regs.reset with
    width := 1#16, height := 1#16, block := 256#9, srcBase := 0xFFFFFFFD#32, srcStride := 3#32, dstBase := 0#32,
    dstStride := 3#32 }

/-- That job at its one tile. -/
def cornerBusy : State := { withRegs cornerRegs with job := latchJob cornerRegs, phase := .busy }

/-- A block whose job was aborted. -/
def abortedState : State := withRegs { rowRegs with err := true, errCode := .aborted }

theorem witness_EncodedInstructionsDecodeBack : (Instr.wrRsvd 0xFC#8 0xFFFFFFFF#32).wf = true ∧
    (Instr.accIllegal .reserved true 0xFF#8).wf = true ∧ (Instr.cmdReserved 0x80000000#32).wf = true ∧
    Instr.start.wf = true := by decide

theorem witness_StepRunsPendingTransaction :
    let s := { rowIdle with inputs := [.transaction 0x508#11 1#32, .engine] }
    s.inputs = .transaction 0x508#11 1#32 :: [.engine] ∧ decode (.tx 0x508#11 1#32) = .wrCmd 1#32 ∧
      (Instr.wrCmd 1#32).wf = true ∧ ∃ t, exec (.wrCmd 1#32) { s with inputs := [.engine] } = .next t :=
  ⟨rfl, rfl, rfl, _, rfl⟩

/-- Also for the clause on a phase that stays. -/
theorem witness_StepRunsPendingTransaction_phase :
    ∃ t, exec .rdId rowBusy = .next t ∧ t.phase = rowBusy.phase := ⟨_, rfl, rfl⟩

theorem witness_PlacedTableWordRuns : decodeTableWord 16 0x40C = some .rdStatus ∧ decodeTableWord 32 1 = some .start ∧
    decodeTableWord 48 0x000000020508 = some (.wrCmd 2#32) := by decide

theorem witness_IdleBlockWaits : rowIdle.runOver = true := by decide

theorem witness_StatusReadReturnsItsFields : rowLast.Inv ∧
    ∃ t, exec .rdStatus rowLast = .next t ∧ t.response.rdata.getLsbD 0 = true := ⟨by decide, _, rfl, by decide⟩

theorem witness_GeometryReadsReturnTheirFields : rowBusy.Inv ∧ State.reset.regs.width.toNat = 0 ∧
    1 ≤ cornerRegs.width.toNat ∧ cornerRegs.width.toNat ≤ cornerRegs.block.toNat ∧
    1 ≤ ({ rowRegs with block := 3#9 } : Regs).width.toNat ∧
    ({ rowRegs with block := 3#9 } : Regs).width.toNat ≤ ({ rowRegs with block := 3#9 } : Regs).block.toNat := by decide

theorem witness_ResultReadsReturnTheirRegisters : rowLast.Inv ∧ rowLast.phase = .busy ∧ abortedState.Inv ∧
    abortedState.regs.err = true ∧ abortedState.regs.errCode ≠ .busRead ∧ abortedState.regs.errCode ≠ .busWrite :=
  ⟨by decide, rfl, by decide, by decide⟩

theorem witness_FieldWritesStoreLowBits : (0x102#32).toNat % 256 ≠ 3 ∧ (0x104#32).toNat % 256 ≠ 3 ∧
    (0x10000#32).toNat % 65536 = 0 ∧ rowIdle.phase = .idle := by decide

theorem witness_StatusWriteClearsByMask : rowLast.Inv ∧ rowLast.phase = .busy := by decide

theorem witness_ReadOnlyAndReservedAccessesDoNothing : (0x3C ≤ (0x3C#8).toNat ∧ (0x3C#8).toNat % 4 = 0) ∧
    (0x3C ≤ (0xFC#8).toNat ∧ (0xFC#8).toNat % 4 = 0) := by decide

theorem witness_IllegalTransactionsAnswerSlverr :
    (¬ ((0x3FF#11).toNat / 512 = 2 ∧ (0x3FF#11).toNat % 4 = 0)) ∧
    (¬ ((0x401#11).toNat / 512 = 2 ∧ (0x401#11).toNat % 4 = 0)) ∧
    ((0x5FC#11).toNat / 512 = 2 ∧ (0x5FC#11).toNat % 4 = 0) ∧ (¬ ((0x600#11).toNat / 512 = 2 ∧ (0x600#11).toNat % 4 = 0)) ∧
    legalAccess .half 0x08#8 = false ∧ legalAccess .word 0x0B#8 = false := by decide

theorem witness_ReservedCommandRaisesWErr : 4 ≤ (4#32).toNat ∧ 4 ≤ (0xFFFFFFFF#32).toNat := by decide

/-- Registers that fail the check of each code and none before it (L1-5, L2-5, R87's example). -/
theorem witness_StartIsRefused_input : StartFails Regs.reset .invalidInput ∧
    (∀ earlier : ErrCode, earlier.bits.toNat < ErrCode.invalidInput.bits.toNat → ¬ StartFails Regs.reset earlier) ∧
    (withRegs Regs.reset).phase = .idle := by
  refine ⟨?_, fun e => ?_, rfl⟩
  · unfold StartFails
    decide
  · cases e <;> simp [ErrCode.bits, StartFails]

/-- The stride is one less than three times the width. -/
def strideRegs : Regs := { rowRegs with srcStride := 8#32 }

theorem witness_StartIsRefused_stride : StartFails strideRegs .badStride ∧
    ∀ earlier : ErrCode, earlier.bits.toNat < ErrCode.badStride.bits.toNat → ¬ StartFails strideRegs earlier := by
  refine ⟨?_, fun e => ?_⟩
  · unfold StartFails
    decide
  · cases e <;> unfold StartFails <;> decide

/-- The last source byte is one past the top of memory. -/
def rangeRegs : Regs := { cornerRegs with srcBase := 0xFFFFFFFE#32 }

theorem witness_StartIsRefused_range : StartFails rangeRegs .range ∧
    ∀ earlier : ErrCode, earlier.bits.toNat < ErrCode.range.bits.toNat → ¬ StartFails rangeRegs earlier := by
  refine ⟨?_, fun e => ?_⟩
  · unfold StartFails
    decide
  · cases e <;> unfold StartFails <;> decide

/-- The Tile Grid begins at the last source byte. -/
def overlapRegs : Regs := { rowRegs with dstBase := 0x108#32 }

theorem witness_StartIsRefused_overlap : StartFails overlapRegs .overlap ∧
    ∀ earlier : ErrCode, earlier.bits.toNat < ErrCode.overlap.bits.toNat → ¬ StartFails overlapRegs earlier := by
  refine ⟨?_, fun e => ?_⟩
  · unfold StartFails
    decide
  · cases e <;> unfold StartFails <;> decide

/-- The ranges are adjacent, and the source ends at the top of memory. -/
theorem witness_StartBeginsTheJob : rowIdle.phase = .idle ∧ (withRegs cornerRegs).phase = .idle ∧
    (∀ code : ErrCode, ¬ StartFails { rowRegs with dstBase := 0x109#32 } code) ∧
    ∀ code : ErrCode, ¬ StartFails cornerRegs code := by
  refine ⟨rfl, rfl, fun e => ?_, fun e => ?_⟩ <;> cases e <;> unfold StartFails <;> decide

theorem witness_StartWhileBusyIsRefused : rowBusy.phase = .busy := rfl

theorem witness_AbortEndsTheJob : rowBusy.phase = .busy ∧ rowIdle.phase = .idle := by decide

theorem witness_AbortAndTheLastTileComeInBothOrders : rowLast.Inv ∧ rowLast.phase = .busy ∧ rowLast.busGaps = [] ∧
    rowLast.cursor.cbx.toNat + 1 = rowLast.job.tx.toNat ∧ rowLast.cursor.cby.toNat + 1 = rowLast.job.ty.toNat ∧
    (pending [.engine, .transaction 0x508#11 2#32] rowLast).Inv ∧
    (pending [.transaction 0x508#11 2#32, .engine] rowLast).Inv :=
  ⟨by decide, rfl, rfl, by decide, by decide, by decide, by decide⟩

theorem witness_OnlyAbortAndResetEndARunningJob : rowBusy.phase = .busy ∧
    ∃ t, exec .start rowBusy = .next t ∧ t.phase = .busy := ⟨rfl, _, rfl, rfl⟩

/-- A tie at an odd and at an even quotient, and the largest sum. -/
theorem witness_RoundMeanIsNearest : (1 ≤ 2 ∧ 5 ≤ 255 * 2 ∧ 2 * (5 % 2) = 2) ∧ (1 ≤ 2 ∧ 3 ≤ 255 * 2 ∧ 2 * (3 % 2) = 2) ∧
    (1 ≤ 1 ∧ 255 ≤ 255 * 1) := by decide

theorem witness_RoundMeanStaysAmongTheSamples : (1 ≤ 65536 ∧ 16711680 ≤ 255 * 65536) ∧ [254, 255] ≠ [] ∧
    ∀ v ∈ [254, 255], 254 ≤ v ∧ v ≤ 255 := by decide

theorem witness_TilesPartitionTheImage : rowBusy.job.Startable ∧ cornerBusy.job.Startable ∧
    cornerBusy.job.w.toNat ≤ cornerBusy.job.b.toNat ∧ cornerBusy.job.h.toNat ≤ cornerBusy.job.b.toNat ∧
    (2 < rowBusy.job.w.toNat ∧ 0 < rowBusy.job.h.toNat) ∧ (1 < rowBusy.job.tx.toNat ∧ 0 < rowBusy.job.ty.toNat) := by decide

theorem witness_AccumulatorsNeverOverflow : rowBusy.job.b.toNat ≤ 256 ∧ cornerBusy.job.b.toNat ≤ 256 ∧
    ∃ acc, readTile rowMem [] (rowBusy.job.tileReads 0 0) (Accumulators.start (rowBusy.job.tileCount 0 0)) = .ok acc :=
  ⟨by decide, by decide, ⟨5#24, 7#24, 9#24, 2#17⟩, by rfl⟩

theorem witness_JobAddressesLieInTheirRanges : rowBusy.job.Startable ∧ cornerBusy.job.Startable ∧
    rowBusy.job.srcAddr 2 0 2 = rowBusy.job.srcLast ∧ cornerBusy.job.srcLast = 0xFFFFFFFF := by decide

theorem witness_JobAccessesEachByteOnce : rowBusy.job.Startable := by decide

theorem witness_TileStepWritesTheRoundedMeans : rowBusy.Inv ∧ rowBusy.phase = .busy ∧
    (∀ p ∈ rowBusy.job.tilePixels rowBusy.cursor.cbx.toNat rowBusy.cursor.cby.toNat, ∀ c, c < 3 →
      busOk rowBusy.busGaps (rowBusy.job.srcAddr p.1 p.2 c) .read = true) ∧
    (∀ c, c < 3 → busOk rowBusy.busGaps
      (rowBusy.job.dstAddr rowBusy.cursor.cbx.toNat rowBusy.cursor.cby.toNat c) .write = true) ∧
    rowBusy.cursor.cbx.toNat + 1 < rowBusy.job.tx.toNat := by decide

/-- A job of two rows of one tile, at its first. -/
def columnBusy : State :=
  let r : Regs := { rowRegs with width := 2#16, height := 3#16, srcStride := 6#32, dstBase := 0x300#32 }
  { withRegs r with job := latchJob r, phase := .busy }

/-- The end of a row. -/
theorem witness_TileStepWritesTheRoundedMeans_row : columnBusy.Inv ∧ columnBusy.phase = .busy ∧
    (∀ p ∈ columnBusy.job.tilePixels columnBusy.cursor.cbx.toNat columnBusy.cursor.cby.toNat, ∀ c, c < 3 →
      busOk columnBusy.busGaps (columnBusy.job.srcAddr p.1 p.2 c) .read = true) ∧
    (∀ c, c < 3 → busOk columnBusy.busGaps
      (columnBusy.job.dstAddr columnBusy.cursor.cbx.toNat columnBusy.cursor.cby.toNat c) .write = true) ∧
    ¬ columnBusy.cursor.cbx.toNat + 1 < columnBusy.job.tx.toNat ∧
    columnBusy.cursor.cby.toNat + 1 < columnBusy.job.ty.toNat := by decide

theorem witness_LastTileCompletesTheJob_irq :
    ({ rowLast with regs := { rowLast.regs with ieDone := true } } : State).regs.ieDone = true ∧
    ({ rowLast with regs := { rowLast.regs with ieDone := true } } : State).job = rowLast.job := by decide

theorem witness_LastTileCompletesTheJob : rowLast.Inv ∧ rowLast.phase = .busy ∧
    (∀ p ∈ rowLast.job.tilePixels rowLast.cursor.cbx.toNat rowLast.cursor.cby.toNat, ∀ c, c < 3 →
      busOk rowLast.busGaps (rowLast.job.srcAddr p.1 p.2 c) .read = true) ∧
    (∀ c, c < 3 → busOk rowLast.busGaps
      (rowLast.job.dstAddr rowLast.cursor.cbx.toNat rowLast.cursor.cby.toNat c) .write = true) ∧
    rowLast.cursor.cbx.toNat + 1 = rowLast.job.tx.toNat ∧ rowLast.cursor.cby.toNat + 1 = rowLast.job.ty.toNat := by decide

/-- The first sample of the tile at the cursor, and the last. -/
theorem witness_BusErrorEndsTheJob_read : (gapped [⟨.read, 0x106, 0x106⟩] rowLast).Inv ∧ rowLast.phase = .busy ∧
    rowLast.job.InTile rowLast.cursor.cbx.toNat rowLast.cursor.cby.toNat 2 0 ∧ rowLast.job.srcAddr 2 0 0 = 0x106 ∧
    rowLast.job.srcAddr 2 0 2 = 0x108 ∧ busOk [⟨.read, 0x106, 0x106⟩] 0x106 .read = false ∧
    (∀ x' y' c', rowLast.job.InTile rowLast.cursor.cbx.toNat rowLast.cursor.cby.toNat x' y' → c' < 3 →
      ReadBefore x' y' c' 2 0 0 → busOk [⟨.read, 0x106, 0x106⟩] (rowLast.job.srcAddr x' y' c') .read = true) ∧
    busOk [⟨.read, 0x108, 0x10A⟩] 0x108 .read = false ∧
    ∀ x' y' c', rowLast.job.InTile rowLast.cursor.cbx.toNat rowLast.cursor.cby.toNat x' y' → c' < 3 →
      ReadBefore x' y' c' 2 0 2 → busOk [⟨.read, 0x108, 0x10A⟩] (rowLast.job.srcAddr x' y' c') .read = true := by
  have tile : ∀ x' y', rowLast.job.InTile rowLast.cursor.cbx.toNat rowLast.cursor.cby.toNat x' y' → x' = 2 ∧ y' = 0 := by
    intro x' y' h
    have h : 1 * 2 ≤ x' ∧ x' < min (1 * 2 + 2) 3 ∧ 0 * 2 ≤ y' ∧ y' < min (0 * 2 + 2) 1 := h
    omega
  refine ⟨by decide, rfl, by unfold Job.InTile; decide, by decide, by decide, by decide, ?_, by decide, ?_⟩
  · intro x' y' c' h hc hb
    obtain ⟨rfl, rfl⟩ := tile x' y' h
    unfold ReadBefore at hb
    omega
  · intro x' y' c' h hc hb
    obtain ⟨rfl, rfl⟩ := tile x' y' h
    unfold ReadBefore at hb
    have : c' = 0 ∨ c' = 1 := by omega
    rcases this with rfl | rfl <;> decide

/-- Of two refused samples of a tile of two rows, (1, 0) is reported and not (0, 1): rows come first (R117, R128). -/
theorem test_bus_read_order : (reached (tileStep { columnBusy with busGaps := [⟨.read, 0x106, 0x106⟩, ⟨.read, 0x103, 0x103⟩] })).map
    (fun t => t.regs.errAddr) = some 0x103#32 := by decide

/-- A gap at each of the three writes, after the reads and the writes before it. -/
theorem witness_BusErrorEndsTheJob_write : ∀ k, k < 3 →
    (gapped [⟨.write, 0x203 + k, 0x203 + k⟩] rowLast).Inv ∧
    (∀ p ∈ rowLast.job.tilePixels 1 0, ∀ c, c < 3 →
      busOk [⟨.write, 0x203 + k, 0x203 + k⟩] (rowLast.job.srcAddr p.1 p.2 c) .read = true) ∧
    (∀ c, c < k → busOk [⟨.write, 0x203 + k, 0x203 + k⟩] (rowLast.job.dstAddr 1 0 c) .write = true) ∧
    busOk [⟨.write, 0x203 + k, 0x203 + k⟩] (rowLast.job.dstAddr 1 0 k) .write = false := by
  intro k hk
  refine ⟨?_, ?_⟩
  · show rowLast.Inv
    decide
  · revert k
    decide

/-- An idle block, a running job, and every kind of pending action. -/
theorem witness_StepKeepsTheInvariant : rowIdle.Inv ∧ rowLast.Inv ∧ cornerBusy.Inv ∧ rowRaced.Inv ∧
    (pending [.hardReset] rowLast).Inv ∧ (pending [.hostWrite 0x100#32 1#8] rowLast).Inv ∧
    (pending [.hostRead 0x200#32] rowLast).Inv ∧ (pending [.wait] rowLast).Inv :=
  ⟨by decide, by decide, by decide, by decide, by decide, by decide, by decide, by decide⟩

theorem witness_JobEndsWithinItsTiles : rowBusy.Inv ∧ rowBusy.inputs = [] ∧ rowBusy.phase = .busy := by decide

theorem rowLast_tiles_done : rowLast.TilesDone rowMem := by
  have h1 : ∀ col, col < 2 → ∀ row, row < 1 → ∀ c, c < 3 → row * 2 + col < 1 →
      Memory.read rowLast.mem (rowLast.job.dstAddr col row c) = jobByte rowMem rowLast.job col row c := by decide
  have h2 : ∀ x, x < 3 → ∀ y, y < 1 → ∀ c, c < 3 →
      Memory.read rowLast.mem (rowLast.job.srcAddr x y c) = Memory.read rowMem (rowLast.job.srcAddr x y c) := by decide
  exact ⟨fun col row c a b d e => h1 col a row b c d e, fun x y c a b d => h2 x a y b c d⟩

/-- The engine moves, or the host writes a byte outside the job's ranges. -/
theorem witness_EveryInterleavingWritesTheTileGrid : rowLast.Inv ∧ rowLast.phase = .busy ∧ rowLast.raced = false ∧
    rowLast.TilesDone rowMem ∧ rowLast.nextActionKeepsJob ∧
    ({ rowLast with inputs := [.hostWrite 0x109#32 1#8] } : State).nextActionKeepsJob :=
  ⟨by decide, rfl, rfl, rowLast_tiles_done, trivial, by unfold State.nextActionKeepsJob; decide⟩

theorem witness_CompletedJobLeavesTheTileGrid : rowBusy.Inv ∧ rowBusy.inputs = [] ∧ rowBusy.phase = .busy ∧
    rowBusy.cursor = ⟨0#16, 0#16⟩ ∧ rowBusy.raced = false ∧
    ∃ t, Host.Core.run Sys2Proof.core 2 rowBusy = .next t ∧ t.regs.done = true :=
  ⟨by decide, rfl, rfl, rfl, rfl, _, rfl, rfl⟩

theorem witness_CanonicalMemoriesAreEqual : Memory.wf rowMem = true ∧ Memory.wf (Memory.write rowMem 0x108 9#8) = true ∧
    ∀ a, Memory.read rowMem a = Memory.read (Memory.write rowMem 0x108 9#8) a := ⟨by decide, by decide, fun _ => rfl⟩

/-- Both ends of memory, a gap and no gap, for each kind. -/
theorem witness_MasterPortAccessesOneByte : Memory.wf rowMem = true ∧ 0 < 2 ^ 32 ∧ 0xFFFFFFFF < 2 ^ 32 ∧
    busOk [] 0 .read = true ∧ busOk [⟨.read, 0, 0⟩] 0 .read = false ∧ busOk [⟨.read, 0, 0⟩] 0 .write = true ∧
    busOk [⟨.write, 0xFFFFFFFF, 0xFFFFFFFF⟩] 0xFFFFFFFF .write = false := by decide

/-- In IDLE; while BUSY, a byte outside the tile; and the same where the job is raced. -/
theorem witness_HardwareResetKeepsMemory :
    Memory.wf rowLast.mem = true ∧ ({ rowLast with inputs := [.hardReset] } : State).inputs = .hardReset :: [] ∧
    OutsideTile rowLast.job rowLast.cursor.cbx.toNat rowLast.cursor.cby.toNat 0x202 ∧
    OutsideTile rowRaced.job rowRaced.cursor.cbx.toNat rowRaced.cursor.cby.toNat 0x206 ∧ rowRaced.raced = true ∧
    0x206 ∉ rowRaced.job.allDst ∧ rowIdle.phase = .idle := by
  refine ⟨by decide, rfl, ?_, ?_, rfl, by decide, rfl⟩ <;> unfold OutsideTile <;> decide

/-- The ends of both ranges; then a raced job and one that is not raced, each at its end. -/
theorem witness_RacedJobOpensOnlyItsDestination : rowBusy.phase = .busy ∧ rowBusy.job.inRanges (0x100#32).toNat = true ∧
    rowBusy.job.inRanges (0x108#32).toNat = true ∧ rowBusy.job.inRanges (0x200#32).toNat = true ∧
    rowBusy.job.inRanges (0x205#32).toNat = true ∧ rowRaced.phase = .busy ∧ rowIdle.phase = .idle ∧
    Memory.wf rowIdle.mem = true ∧ 0x206 ∉ rowRaced.job.allDst ∧ rowLast.raced = false := by decide

theorem witness_StatusReadOrdersTheJobsWrites :
    (withRegs { Regs.reset with done := true }).regs.done = true ∧
    (withRegs { Regs.reset with err := true, errCode := .aborted }).regs.err = true ∧
    (let s := { rowLast with unsynced := [rowRecord] }
     s.unsynced = rowRecord :: [] ∧ rowRecord.raced = false ∧ rowRecord.job.dstSample (0x200#32).toNat = some (0, 0, 0) ∧
       rowRecord.job.dstSample (0x205#32).toNat = some (1, 0, 2)) := by decide

/-- A byte outside every destination, and the last source byte of the running job with no earlier job unseen. -/
theorem witness_StatusReadOrdersTheJobsWrites_source :
    let s := { rowLast with unsynced := [rowRecord] }
    (∀ r ∈ s.unsynced, ¬ r.job.Writes (0x206#32).toNat) ∧ s.Inv ∧ s.RecordsJob ∧ s.phase = .busy ∧
      (∀ r ∈ s.unsynced.tail, ¬ r.job.Writes (0x108#32).toNat) ∧ 2 < s.job.w.toNat ∧ 0 < s.job.h.toNat ∧
      (0x108#32).toNat = s.job.srcAddr 2 0 2 := by
  refine ⟨?_, by decide, fun _ => ⟨rowRecord, [], rfl, rfl, rfl, rfl⟩, rfl, by simp, by decide, by decide, by decide⟩
  intro r hr ⟨col, row, c, h1, h2, h3, h4⟩
  obtain rfl : r = rowRecord := by simpa using hr
  have h1 : col < 2 := h1
  have h2 : row < 1 := h2
  have h4 : 0x206 = 0x200 + row * 6 + 3 * col + c := h4
  omega

theorem witness_HostReadsWhatWasWritten :
    let s := { rowIdle with inputs := [.hostWrite 0xFFFFFFFF#32 0x5A#8, .hostRead 0xFFFFFFFF#32] }
    Memory.wf s.mem = true ∧ s.phase = .idle ∧ s.unsynced = [] ∧
      s.inputs = .hostWrite 0xFFFFFFFF#32 0x5A#8 :: .hostRead 0xFFFFFFFF#32 :: [] := by decide

theorem witness_PseudoInstructionsExpand :
    (ScriptLine.sreset, 3#32) ∈ [(ScriptLine.nop, 0#32), (.start, 1#32), (.abort, 2#32), (.sreset, 3#32)] ∧
    ({ rowBusy with inputs := [.wait] } : State).inputs = .wait :: [] ∧
    ({ rowIdle with inputs := [.wait] } : State).inputs = .wait :: [] := by decide

theorem witness_ScriptLinesAreTheirTransactions : (AccSize.byte = .byte ∨ AccSize.byte = .half) ∧
    (AccSize.half = .byte ∨ AccSize.half = .half) := by decide

/-- The job at its last tile, its end enabled as an interrupt and its record unseen. -/
def rowLastIrq : State := { rowLast with regs := { rowLast.regs with ieDone := true }, unsynced := [rowRecord] }

theorem rowLastIrq_records : rowLastIrq.RecordsJob := fun _ => ⟨rowRecord, [], rfl, rfl, rfl, rfl⟩

/-- The last tile raises irq by DONE; its last byte. -/
theorem witness_IrqOrdersTheJobsWrites_done : rowLastIrq.Inv ∧ rowLastIrq.RecordsJob ∧ rowLastIrq.phase = .busy ∧
    rowLastIrq.irq = false ∧ (∃ t, step rowLastIrq = .next t ∧ t.phase = .idle ∧ t.irq = true ∧ t.regs.done = true) ∧
    1 < rowLastIrq.job.tx.toNat ∧ 0 < rowLastIrq.job.ty.toNat ∧ (0x205#32).toNat = rowLastIrq.job.dstAddr 1 0 2 :=
  ⟨by decide, rowLastIrq_records, rfl, rfl, ⟨_, rfl, rfl, rfl, rfl⟩, by decide, by decide, by decide⟩

/-- ABORT raises it by ERR; the last byte of the finished tile. -/
theorem witness_IrqOrdersTheJobsWrites_aborted :
    let s := pending [.transaction 0x508#11 2#32] { rowLastIrq with regs := { rowLast.regs with ieErr := true } }
    s.Inv ∧ s.RecordsJob ∧ s.phase = .busy ∧ s.irq = false ∧
      (∃ t, step s = .next t ∧ t.phase = .idle ∧ t.irq = true ∧ 0 * s.job.tx.toNat + 0 < t.regs.progress.toNat) ∧
      (0x202#32).toNat = s.job.dstAddr 0 0 2 :=
  ⟨by decide, rowLastIrq_records, rfl, rfl, ⟨_, rfl, rfl, rfl, by decide⟩, by decide⟩

/-- A refused write raises it by ERR; the byte before that write. -/
theorem witness_IrqOrdersTheJobsWrites_refused :
    let s := gapped [⟨.write, 0x204, 0x204⟩] { rowLastIrq with regs := { rowLast.regs with ieErr := true } }
    s.Inv ∧ s.RecordsJob ∧ s.phase = .busy ∧ s.irq = false ∧
      (∃ t, step s = .next t ∧ t.phase = .idle ∧ t.irq = true ∧ t.regs.errCode = .busWrite ∧
        (0x203#32).toNat < t.regs.errAddr.toNat) ∧
      1 = s.cursor.cbx.toNat ∧ 0 = s.cursor.cby.toNat ∧ (0x203#32).toNat = s.job.dstAddr 1 0 0 :=
  ⟨by decide, rowLastIrq_records, rfl, rfl, ⟨_, rfl, rfl, rfl, rfl, by decide⟩, by decide, by decide, by decide⟩

/-- A step that begins a job, and a step of a running one. -/
theorem witness_StepKeepsTheJobsRecord_start :
    (∃ t, step (pending [.transaction 0x508#11 1#32] rowIdle) = .next t ∧ t.phase = .busy) ∧ rowIdle.phase = .idle ∧
      rowLastIrq.phase = .busy ∧ rowLastIrq.unsynced = rowRecord :: [] ∧ ∃ t, step rowLastIrq = .next t :=
  ⟨⟨_, rfl, rfl⟩, rfl, rfl, rfl, _, rfl⟩

theorem witness_StepKeepsTheJobsRecord : rowLastIrq.Inv ∧ rowLastIrq.RecordsJob ∧ rowIdle.Inv ∧ rowIdle.RecordsJob :=
  ⟨by decide, rowLastIrq_records, by decide, fun h => by cases h⟩

end Sys2Proof.Tests
end

section
/-! PROOFS. What one transaction does to the block, said once: it is a register access or it performs a command. -/

namespace Sys2Proof.Machine

open Sys2Proof

/-! ## Commands -/

/-- The command that a transaction performs: its own, or for a CMD write the one of its DATA (40_register_access.md R75). -/
def performedCommand : Instr → Option Command
  | .wrCmd data => some (decodeCommand data)
  | .nop => some .nop
  | .start => some .start
  | .abort => some .abort
  | .softReset => some .softReset
  | .cmdReserved word => some (.reserved word)
  | _ => none

/-- The effect of a command before its write completes (41_commands.md R103 to R108). -/
def runCommand (c : Command) (s : State) : State :=
  match c with
  | .nop => s
  | .start => match s.phase with
    | .busy => raiseWErr .startWhileBusy s
    | .idle => startIdle s
  | .abort => match s.phase with
    | .busy => raiseError .aborted 0#32 s
    | .idle => s
  | .softReset => resetBlock s
  | .reserved _ => raiseWErr .illegalCmd s

theorem performedCommand_eq_some_iff (i : Instr) (c : Command) :
    performedCommand i = some c ↔ i = c.toInstr ∨ ∃ data, i = .wrCmd data ∧ decodeCommand data = c := by
  constructor
  · intro h
    cases i with
    | wrCmd data => exact .inr ⟨data, rfl, Option.some.inj h⟩
    | nop | start | abort | softReset | cmdReserved =>
      obtain rfl := Option.some.inj h
      exact .inl rfl
    | _ => cases h
  · rintro (rfl | ⟨data, rfl, rfl⟩)
    · cases c <;> rfl
    · rfl

/-- A CMD write and a command of its own are the same effect, completed with OKAY. -/
theorem exec_of_performedCommand {i : Instr} {c : Command} (h : performedCommand i = some c) (s : State) :
    exec i s = .next (completeWrite (runCommand c s)) := by
  rcases (performedCommand_eq_some_iff i c).1 h with rfl | ⟨data, rfl, rfl⟩
  · cases c <;> rfl
  · show execWrCmd data s = _
    unfold execWrCmd
    cases decodeCommand data <;> rfl

@[simp] theorem runCommand_nop (s : State) : runCommand .nop s = s := rfl
@[simp] theorem runCommand_softReset (s : State) : runCommand .softReset s = resetBlock s := rfl
@[simp] theorem runCommand_reserved (word : Word) (s : State) :
    runCommand (.reserved word) s = raiseWErr .illegalCmd s := rfl

theorem runCommand_start_idle {s : State} (h : s.phase = .idle) : runCommand .start s = startIdle s := by
  simp [runCommand, h]

theorem runCommand_start_busy {s : State} (h : s.phase = .busy) :
    runCommand .start s = raiseWErr .startWhileBusy s := by
  simp [runCommand, h]

theorem runCommand_abort_idle {s : State} (h : s.phase = .idle) : runCommand .abort s = s := by
  simp [runCommand, h]

theorem runCommand_abort_busy {s : State} (h : s.phase = .busy) :
    runCommand .abort s = raiseError .aborted 0#32 s := by
  simp [runCommand, h]

theorem Phase.idle_or_busy (p : Phase) : p = .idle ∨ p = .busy := by cases p <;> simp

/-- START on an IDLE block does the same whatever memory holds: its checks read the registers alone. -/
theorem startIdle_withMem (s : State) (m : Memory) :
    startIdle { s with mem := m } = { startIdle s with mem := m } := by
  rcases startIdle_cases s with ⟨hs, e⟩ | ⟨hs, e⟩
  · rcases startIdle_cases { s with mem := m } with ⟨-, e'⟩ | ⟨hs', -⟩
    · rw [e, e']; rfl
    · exact absurd hs hs'
  · rcases startIdle_cases { s with mem := m } with ⟨hs', -⟩ | ⟨-, e'⟩
    · exact absurd hs' hs
    · rw [e, e']; rfl

theorem startIdle_platform (s : State) : SamePlatform s (startIdle s) := by
  rcases startIdle_cases s with ⟨-, e⟩ | ⟨-, e⟩ <;> rw [e] <;> exact ⟨fun _ => rfl, rfl, rfl, rfl, rfl⟩

/-- No command reads memory. -/
theorem runCommand_withMem (c : Command) (s : State) (m : Memory) :
    runCommand c { s with mem := m } = { runCommand c s with mem := m } := by
  cases c with
  | nop | softReset | reserved => rfl
  | start =>
    rcases s.phase.idle_or_busy with h | h
    · have h' : State.phase { s with mem := m } = .idle := h
      rw [runCommand_start_idle h, runCommand_start_idle h', startIdle_withMem]
    · have h' : State.phase { s with mem := m } = .busy := h
      rw [runCommand_start_busy h, runCommand_start_busy h']
      rfl
  | abort =>
    rcases s.phase.idle_or_busy with h | h
    · have h' : State.phase { s with mem := m } = .idle := h
      rw [runCommand_abort_idle h, runCommand_abort_idle h']
    · have h' : State.phase { s with mem := m } = .busy := h
      rw [runCommand_abort_busy h, runCommand_abort_busy h']
      rfl

/-- No command touches the platform. -/
theorem runCommand_platform (c : Command) (s : State) : SamePlatform s (runCommand c s) := by
  cases c with
  | nop | softReset | reserved => exact ⟨fun _ => rfl, rfl, rfl, rfl, rfl⟩
  | start =>
    cases h : s.phase with
    | idle => rw [runCommand_start_idle h]; exact startIdle_platform s
    | busy => rw [runCommand_start_busy h]; exact ⟨fun _ => rfl, rfl, rfl, rfl, rfl⟩
  | abort =>
    cases h : s.phase with
    | idle => rw [runCommand_abort_idle h]; exact ⟨fun _ => rfl, rfl, rfl, rfl, rfl⟩
    | busy => rw [runCommand_abort_busy h]; exact ⟨fun _ => rfl, rfl, rfl, rfl, rfl⟩

/-- While BUSY exactly ABORT and SOFT_RESET leave an IDLE block (10_state.md R20). -/
theorem runCommand_busy_ends_iff {s : State} (h : s.phase = .busy) (c : Command) :
    (runCommand c s).phase = .idle ↔ c = .abort ∨ c = .softReset := by
  cases c with
  | nop | softReset | reserved => simp [h]
  | start => simp [runCommand_start_busy h, h]
  | abort => simp [runCommand_abort_busy h]

/-- A command that leaves the block BUSY leaves its job, its cursor, its progress, DONE and ERR. -/
theorem runCommand_busy_keeps_job {s : State} (h : s.phase = .busy) (c : Command) (ht : (runCommand c s).phase = .busy) :
    (runCommand c s).job = s.job ∧ (runCommand c s).cursor = s.cursor ∧ (runCommand c s).acc = s.acc ∧
      (runCommand c s).regs.progress = s.regs.progress ∧ (runCommand c s).regs.done = s.regs.done ∧
      (runCommand c s).regs.err = s.regs.err := by
  cases c with
  | nop | reserved => simp
  | start => simp [runCommand_start_busy h]
  | abort => simp [runCommand_abort_busy h] at ht
  | softReset => simp at ht

/-! ## Which transactions end a job -/

/-- A command word is its two fields (30_encoding.md R61). -/
theorem commandMbz_append_commandOp (word : Word) : commandMbz word ++ commandOp word = word := by
  unfold commandMbz commandOp
  apply BitVec.eq_of_toNat_eq
  rw [toNat_append_eq]
  simp only [BitVec.extractLsb'_toNat, Nat.shiftRight_eq_div_pow]
  omega

theorem eq_of_command_fields {word : Word} {op : BitVec 4} (hmbz : commandMbz word = 0#28) (hop : commandOp word = op) :
    word = 0#28 ++ op := by
  rw [← hmbz, ← hop, commandMbz_append_commandOp]

theorem decodeCommand_eq_abort_iff (word : Word) : decodeCommand word = .abort ↔ word = 2#32 := by
  constructor
  · intro h
    unfold decodeCommand at h
    split_ifs at h with hmbz _ _ hop
    exact eq_of_command_fields (not_not.1 hmbz) hop
  · rintro rfl
    rfl

theorem decodeCommand_eq_softReset_iff (word : Word) : decodeCommand word = .softReset ↔ word = 3#32 := by
  constructor
  · intro h
    unfold decodeCommand at h
    split_ifs at h with hmbz _ _ _ hop
    exact eq_of_command_fields (not_not.1 hmbz) hop
  · rintro rfl
    rfl

theorem performedCommand_eq_abort_iff (i : Instr) :
    performedCommand i = some .abort ↔ i = .abort ∨ i = .wrCmd 2#32 := by
  simp [performedCommand_eq_some_iff, Command.toInstr, decodeCommand_eq_abort_iff]

theorem performedCommand_eq_softReset_iff (i : Instr) :
    performedCommand i = some .softReset ↔ i = .softReset ∨ i = .wrCmd 3#32 := by
  simp [performedCommand_eq_some_iff, Command.toInstr, decodeCommand_eq_softReset_iff]

/-! ## Registers -/

/-- The part of the invariant that is about the registers alone. -/
def Regs.Sound (r : Regs) : Prop := r.CodesAgree ∧ r.BlockLegal ∧ r.ErrAddrIsBusAddr

theorem inv_iff (s : State) :
    s.Inv ↔ Memory.wf s.mem = true ∧ s.regs.Sound ∧ (s.phase = .busy → s.Running) := by
  simp only [State.Inv, Regs.Sound, and_assoc]

theorem Regs.sound_reset : Regs.reset.Sound := by
  unfold Regs.Sound
  decide

theorem Regs.sound_clearDone {r : Regs} (h : r.Sound) : r.clearDone.Sound := h

theorem Regs.sound_clearErr {r : Regs} (h : r.Sound) : r.clearErr.Sound := by
  obtain ⟨⟨-, hw⟩, hb, -⟩ := h
  exact ⟨⟨by simp, hw⟩, hb, by simp [Regs.ErrAddrIsBusAddr]⟩

theorem Regs.sound_clearWerr {r : Regs} (h : r.Sound) : r.clearWerr.Sound := by
  obtain ⟨⟨he, -⟩, hb, ha⟩ := h
  exact ⟨⟨he, by simp⟩, hb, ha⟩

/-- An error entry keeps the registers sound: its code is none of `.none`, and only a bus error has an address
(10_state.md R20, R31). -/
theorem Regs.sound_setErr {r : Regs} (h : r.Sound) {code : ErrCode} {addr : Word} (hc : code ≠ .none)
    (ha : code ≠ .busRead → code ≠ .busWrite → addr = 0#32) : (r.setErr code addr).Sound := by
  obtain ⟨⟨-, hw⟩, hb, -⟩ := h
  exact ⟨⟨by simpa using hc, hw⟩, hb, fun _ => ha⟩

/-- A host-protocol error keeps the registers sound, with the first code or with its own (60_exceptions.md R130). -/
theorem Regs.sound_setWerr {r : Regs} (h : r.Sound) {code : WErrCode} (hc : code ≠ .none) : (r.setWerr code).Sound := by
  obtain ⟨⟨he, hw⟩, hb, ha⟩ := h
  refine ⟨⟨he, ?_⟩, hb, ha⟩
  cases hr : r.werr <;> simp_all

/-- What a register access other than a command may do to the registers: PROGRESS stays, DONE and ERR are not set. -/
structure AccessKeeps (r r' : Regs) : Prop where
  progress : r'.progress = r.progress
  done : r'.done = true → r.done = true
  err : r'.err = true → r.err = true
  sound : r.Sound → r'.Sound

theorem AccessKeeps.refl (r : Regs) : AccessKeeps r r := ⟨rfl, id, id, id⟩

theorem AccessKeeps.trans {r r' r'' : Regs} (h : AccessKeeps r r') (h' : AccessKeeps r' r'') : AccessKeeps r r'' :=
  ⟨h'.progress.trans h.progress, h.done ∘ h'.done, h.err ∘ h'.err, h'.sound ∘ h.sound⟩

theorem accessKeeps_ite {b : Bool} {r r' : Regs} (h : AccessKeeps r r') : AccessKeeps r (if b then r' else r) := by
  cases b
  · exact .refl r
  · exact h

/-- WR_STATUS clears flags, each with its code. -/
theorem accessKeeps_clearByMask (r : Regs) (data : Word) : AccessKeeps r (r.clearByMask data) := by
  have clearDone (r : Regs) : AccessKeeps r r.clearDone := ⟨rfl, by simp, id, Regs.sound_clearDone⟩
  have clearErr (r : Regs) : AccessKeeps r r.clearErr := ⟨rfl, id, by simp, Regs.sound_clearErr⟩
  have clearWerr (r : Regs) : AccessKeeps r r.clearWerr := ⟨rfl, id, id, Regs.sound_clearWerr⟩
  exact ((accessKeeps_ite (clearDone _)).trans (accessKeeps_ite (clearErr _))).trans (accessKeeps_ite (clearWerr _))

/-- WR_BLOCK stores a legal value (10_state.md R24). -/
theorem accessKeeps_block (r : Regs) (data : Word) : AccessKeeps r { r with block := blockOperand data } :=
  ⟨rfl, id, id, fun ⟨hc, _, ha⟩ => ⟨hc, blockOperand_legal data, ha⟩⟩

/-! ## Register accesses -/

theorem mnemonic_eq_accIllegal_iff (i : Instr) :
    i.mnemonic = "ACC_ILLEGAL" ↔ ∃ size wr off, i = .accIllegal size wr off := by
  cases i <;> simp [Instr.mnemonic]

/-- A transaction that performs no command completes with new registers, a response and a view of ended jobs, and leaves
the rest. -/
theorem exec_access {i : Instr} (h : performedCommand i = none) (s : State) :
    ∃ r resp seen, exec i s = .next { s with regs := r, response := resp, unsynced := seen } ∧
      AccessKeeps s.regs r ∧ (resp.resp = .slverr ↔ i.mnemonic = "ACC_ILLEGAL") := by
  rw [mnemonic_eq_accIllegal_iff]
  cases i with
  | wrCmd | nop | start | abort | softReset | cmdReserved => cases h
  | wrStatus data => exact ⟨_, _, _, rfl, accessKeeps_clearByMask s.regs data, by simp⟩
  | wrBlock data => exact ⟨_, _, _, rfl, accessKeeps_block s.regs data, by simp⟩
  | wrCtrl | wrFormat | wrWidth | wrHeight | wrSrcBase | wrSrcStride | wrDstBase | wrDstStride =>
    exact ⟨_, _, _, rfl, ⟨rfl, id, id, id⟩, by simp⟩
  | _ => exact ⟨_, _, _, rfl, .refl s.regs, by simp⟩

/-- No transaction reads memory: with any other memory in place it does the same and leaves that one. -/
theorem exec_withMem {i : Instr} {s t : State} (h : exec i s = .next t) (m : Memory) :
    exec i { s with mem := m } = .next { t with mem := m } := by
  cases hc : performedCommand i with
  | some c =>
    obtain rfl := Host.Outcome.next.inj ((exec_of_performedCommand hc s).symm.trans h)
    rw [exec_of_performedCommand hc, runCommand_withMem]
    rfl
  | none =>
    cases i with
    | wrCmd | nop | start | abort | softReset | cmdReserved => cases hc
    | _ =>
      obtain rfl := Host.Outcome.next.inj h
      rfl

end Sys2Proof.Machine
end

section
/-! PROOFS. What every operation of the block and of the platform does to the invariant. -/

namespace Sys2Proof.Machine

open Sys2Proof

/-! ## States that meet the invariant -/

/-- The invariant is about memory's form, the registers and the engine's job, phase and cursor, and about nothing else. -/
theorem inv_of_same_block {s t : State} (h : s.Inv) (hm : Memory.wf t.mem = true) (hr : t.regs = s.regs)
    (hj : t.job = s.job) (hp : t.phase = s.phase) (hc : t.cursor = s.cursor) : t.Inv := by
  obtain ⟨-, hsound, hrun⟩ := (inv_iff s).1 h
  refine (inv_iff t).2 ⟨hm, hr ▸ hsound, fun hb => ?_⟩
  have running := hrun (hp ▸ hb)
  unfold State.Running at running ⊢
  rw [hr, hj, hc]
  exact running

/-- While IDLE the invariant asks nothing of the engine. -/
theorem inv_of_idle {s : State} (hm : Memory.wf s.mem = true) (hr : s.regs.Sound) (hp : s.phase = .idle) : s.Inv :=
  (inv_iff s).2 ⟨hm, hr, fun hb => by simp [hp] at hb⟩

/-- The registers may change where they stay sound, PROGRESS stays and DONE and ERR are not set. -/
theorem inv_of_accessKeeps {s t : State} (h : s.Inv) (hk : AccessKeeps s.regs t.regs) (hm : t.mem = s.mem)
    (hj : t.job = s.job) (hp : t.phase = s.phase) (hc : t.cursor = s.cursor) : t.Inv := by
  obtain ⟨hwf, hsound, hrun⟩ := (inv_iff s).1 h
  refine (inv_iff t).2 ⟨hm ▸ hwf, hk.sound hsound, fun hb => ?_⟩
  obtain ⟨hdone, herr, hjob, hx, hy, hprog⟩ := hrun (hp ▸ hb)
  unfold State.Running
  rw [hj, hc, hk.progress]
  refine ⟨?_, ?_, hjob, hx, hy, hprog⟩
  · rw [Bool.eq_false_iff]
    exact fun e => by simp [hk.done e] at hdone
  · rw [Bool.eq_false_iff]
    exact fun e => by simp [hk.err e] at herr

/-! ## Commands -/

theorem inv_completeWrite {s : State} (h : s.Inv) : (completeWrite s).Inv := h

theorem inv_resetBlock {s : State} (h : s.Inv) : (resetBlock s).Inv :=
  inv_of_idle h.1 Regs.sound_reset rfl

theorem inv_raiseError {s : State} (h : s.Inv) {code : ErrCode} {addr : Word} (hc : code ≠ .none)
    (ha : code ≠ .busRead → code ≠ .busWrite → addr = 0#32) : (raiseError code addr s).Inv := by
  obtain ⟨hwf, hsound, -⟩ := (inv_iff s).1 h
  exact inv_of_idle hwf (Regs.sound_setErr hsound hc ha) rfl

theorem inv_raiseWErr {s : State} (h : s.Inv) {code : WErrCode} (hc : code ≠ .none) : (raiseWErr code s).Inv :=
  inv_of_accessKeeps h ⟨rfl, id, id, fun hs => Regs.sound_setWerr hs hc⟩ rfl rfl rfl rfl

/-- START clears DONE and ERR and so keeps the registers sound. -/
theorem sound_latchForStart {s : State} (h : s.regs.Sound) : (latchForStart s).regs.Sound := by
  obtain ⟨hc, hb, -⟩ := Regs.sound_clearErr (Regs.sound_clearDone h)
  exact ⟨hc, hb, fun _ _ _ => rfl⟩

/-- A latch of legal registers that passes START's checks is one that a START leaves. -/
theorem startable_latchJob {r : Regs} (hb : r.BlockLegal) (hs : startCheck r.channels (latchJob r) = .none) :
    (latchJob r).Startable := by
  obtain ⟨⟨hch, -⟩, -⟩ := (startCheck_none_iff r.channels (latchJob r)).1 hs
  exact ⟨hb.1, hb.2, tilesX_toNat r, tilesY_toNat r, hch ▸ hs⟩

/-- A column of the grid begins inside the image. -/
theorem Job.Startable.col_lt_iff {j : Job} (h : j.Startable) (col : Nat) :
    col < j.tx.toNat ↔ j.x0 col < j.w.toNat := by
  obtain ⟨hb, -, htx, -, -⟩ := h
  rw [htx, lt_ceilDiv_iff _ _ _ hb]
  rfl

/-- A row of the grid begins inside the image. -/
theorem Job.Startable.row_lt_iff {j : Job} (h : j.Startable) (row : Nat) :
    row < j.ty.toNat ↔ j.y0 row < j.h.toNat := by
  obtain ⟨hb, -, -, hty, -⟩ := h
  rw [hty, lt_ceilDiv_iff _ _ _ hb]
  rfl

/-- A job that START accepts has a first tile. -/
theorem Job.Startable.grid_pos {j : Job} (h : j.Startable) : 0 < j.tx.toNat ∧ 0 < j.ty.toNat := by
  rw [h.col_lt_iff, h.row_lt_iff]
  obtain ⟨-, -, -, -, hcheck⟩ := h
  obtain ⟨⟨-, hw, hh⟩, -⟩ := (startCheck_none_iff _ j).1 hcheck
  unfold Job.x0 Job.y0
  omega

theorem inv_startIdle {s : State} (h : s.Inv) (hp : s.phase = .idle) : (startIdle s).Inv := by
  obtain ⟨hwf, hsound, -⟩ := (inv_iff s).1 h
  rcases startIdle_cases s with ⟨hpass, e⟩ | ⟨hfail, e⟩
  · have hjob := startable_latchJob hsound.2.1 hpass
    rw [e]
    refine (inv_iff _).2 ⟨hwf, sound_latchForStart hsound, fun _ => ?_⟩
    exact ⟨rfl, rfl, hjob, hjob.grid_pos.1, hjob.grid_pos.2, by simp⟩
  · rw [e]
    have latched : (latchForStart s).Inv := inv_of_idle hwf (sound_latchForStart hsound) hp
    exact inv_raiseError latched hfail fun _ _ => rfl

theorem inv_runCommand {s : State} (h : s.Inv) (c : Command) : (runCommand c s).Inv := by
  cases c with
  | nop => exact h
  | start =>
    cases hp : s.phase with
    | idle => rw [runCommand_start_idle hp]; exact inv_startIdle h hp
    | busy => rw [runCommand_start_busy hp]; exact inv_raiseWErr h (by decide)
  | abort =>
    cases hp : s.phase with
    | idle => rw [runCommand_abort_idle hp]; exact h
    | busy => rw [runCommand_abort_busy hp]; exact inv_raiseError h (by decide) fun _ _ => rfl
  | softReset => exact inv_resetBlock h
  | reserved => exact inv_raiseWErr h (by decide)

/-- Every transaction completes and keeps the invariant. -/
theorem exec_keeps_inv (i : Instr) {s : State} (h : s.Inv) : ∃ t, exec i s = .next t ∧ t.Inv := by
  cases hc : performedCommand i with
  | some c => exact ⟨_, exec_of_performedCommand hc s, inv_completeWrite (inv_runCommand h c)⟩
  | none =>
    obtain ⟨r, resp, seen, e, hk, -⟩ := exec_access hc s
    exact ⟨_, e, inv_of_accessKeeps h hk rfl rfl rfl rfl⟩

/-! ## The engine -/

/-- While a job runs, the tile at the cursor is there to be processed: the engine's step never faults. -/
theorem tileReady_of_running {s : State} (h : s.Running) : tileReady s.job s.cursor = true := by
  obtain ⟨-, -, hjob, hx, hy, -⟩ := h
  have hpos := tileCount_pos s.job _ _ hjob.1 ((hjob.col_lt_iff _).1 hx) ((hjob.row_lt_iff _).1 hy)
  obtain ⟨-, -, -, -, hcheck⟩ := hjob
  obtain ⟨-, -, ⟨hsrc, hdst⟩, -⟩ := (startCheck_none_iff _ s.job).1 hcheck
  simp [tileReady, hsrc, hdst, hx, hy, hpos]

/-- PROGRESS counts one more tile without wrapping: a grid has fewer than 2^32 tiles. -/
theorem progress_add_one {s : State} (h : s.Running) :
    (s.regs.progress + 1#32).toNat = s.cursor.cby.toNat * s.job.tx.toNat + s.cursor.cbx.toNat + 1 := by
  obtain ⟨-, -, -, hx, hy, hprog⟩ := h
  have hrow : s.cursor.cby.toNat * s.job.tx.toNat ≤ 65534 * 65535 :=
    Nat.mul_le_mul (by omega) (by omega)
  rw [BitVec.toNat_add, hprog, BitVec.toNat_ofNat]
  omega

/-- A coordinate below the grid's edge goes one up without wrapping. -/
theorem dim_add_one {d edge : Dim} (h : d.toNat + 1 < edge.toNat) : (d + 1#16).toNat = d.toNat + 1 := by
  have := edge.isLt
  rw [BitVec.toNat_add, BitVec.toNat_ofNat]
  omega

/-- A tile that is done moves the cursor on with PROGRESS, or completes the job. -/
theorem inv_advance {s : State} (h : s.Inv) (hp : s.phase = .busy) : (advance s).Inv := by
  obtain ⟨hwf, hsound, hrun⟩ := (inv_iff s).1 h
  have running := hrun hp
  have hprog := progress_add_one running
  obtain ⟨hdone, herr, hjob, hx, hy, -⟩ := running
  rcases advance_cases s with ⟨hright, e⟩ | ⟨hlast, hdown, e⟩ | ⟨-, -, e⟩
  · rw [e]
    refine (inv_iff _).2 ⟨hwf, hsound, fun _ => ⟨hdone, herr, hjob, ?_, hy, ?_⟩⟩
    · exact (dim_add_one hright).trans_lt hright
    · rw [dim_add_one hright, hprog, Nat.add_assoc]
  · have hrow : s.cursor.cbx.toNat + 1 = s.job.tx.toNat := by omega
    rw [e]
    refine (inv_iff _).2 ⟨hwf, hsound, fun _ => ⟨hdone, herr, hjob, hjob.grid_pos.1, ?_, ?_⟩⟩
    · exact (dim_add_one hdown).trans_lt hdown
    · rw [dim_add_one hdown, hprog, Nat.add_assoc, hrow, Nat.succ_mul]
      rfl
  · rw [e]
    exact inv_of_idle hwf hsound rfl

/-- The invariant leaves the accumulators open, and memory but for its form. -/
theorem inv_with_acc_mem {s : State} (h : s.Inv) (acc : Accumulators) {m : Memory} (hm : Memory.wf m = true) :
    State.Inv { s with acc := acc, mem := m } :=
  inv_of_same_block h hm rfl rfl rfl rfl

theorem inv_processTile {s : State} (h : s.Inv) (hp : s.phase = .busy) : (processTile s).Inv := by
  rcases processTile_cases s with ⟨_, _, _, _, -, -, -, e⟩ | ⟨-, before, _, _, _, -, -, -, e⟩ | ⟨-, -, e⟩
  · rw [e]
    exact inv_raiseError (inv_with_acc_mem h _ h.1) (by simp) (by simp)
  · rw [e]
    exact inv_raiseError (inv_with_acc_mem h _ (wf_writeAll before s.mem h.1)) (by simp) (by simp)
  · rw [e]
    exact inv_advance (inv_with_acc_mem h _ (wf_writeAll s.curWrites s.mem h.1)) hp

theorem tileStep_keeps_inv {s : State} (h : s.Inv) : ∃ t, tileStep s = .next t ∧ t.Inv := by
  unfold tileStep
  cases hp : s.phase with
  | idle => exact ⟨s, rfl, h⟩
  | busy =>
    obtain ⟨-, -, hrun⟩ := (inv_iff s).1 h
    exact ⟨processTile s, by simp [tileReady_of_running (hrun hp)], inv_processTile h hp⟩

/-! ## The platform -/

/-- The bookkeeping of a job's beginning and end keeps the invariant. -/
theorem inv_settle (before : State) {after : State} (h : after.Inv) : (settle before after).Inv := by
  obtain ⟨hr, hj, hp, hc, -⟩ := settle_frame before after
  exact inv_of_same_block h (wf_settle before after h.1) hr hj hp hc

/-- Settling an outcome that meets the invariant gives one. -/
theorem settleOutcome_keeps_inv (before : State) {out : Host.Outcome State Fault Refusal}
    (h : ∃ t, out = .next t ∧ t.Inv) : ∃ t, settleOutcome before out = .next t ∧ t.Inv := by
  obtain ⟨t, rfl, ht⟩ := h
  exact ⟨_, rfl, inv_settle before ht⟩

theorem engineMove_keeps_inv {s : State} (h : s.Inv) : ∃ t, engineMove s = .next t ∧ t.Inv :=
  settleOutcome_keeps_inv s (tileStep_keeps_inv h)

theorem inv_hardReset {s : State} (h : s.Inv) : (hardReset s).Inv := by
  obtain ⟨hr, hp, -⟩ := hardReset_frame s
  exact inv_of_idle (wf_hardReset s h.1) (hr ▸ Regs.sound_reset) hp

theorem inv_hostWrite (addr : Word) (value : Byte) {s : State} (h : s.Inv) : (hostWrite addr value s).Inv := by
  obtain ⟨-, hr, hj, hp, hc, -⟩ := hostWrite_frame addr value s
  exact inv_of_same_block h (wf_hostWrite addr value s h.1) hr hj hp hc

theorem inv_hostRead (addr : Word) {s : State} (h : s.Inv) : (hostRead addr s).Inv := by
  rcases hostRead_cases addr s with ⟨-, e⟩ | ⟨v, -, e⟩ <;> rw [e] <;> exact h

theorem inv_pollAgain {s : State} (h : s.Inv) : (pollAgain s).Inv := by
  rcases pollAgain_cases s with ⟨-, e⟩ | ⟨-, e⟩ <;> rw [e] <;> exact h

theorem pollOutcome_keeps_inv {out : Host.Outcome State Fault Refusal} (h : ∃ t, out = .next t ∧ t.Inv) :
    ∃ t, pollOutcome out = .next t ∧ t.Inv := by
  obtain ⟨t, rfl, ht⟩ := h
  exact ⟨_, rfl, inv_pollAgain ht⟩

end Sys2Proof.Machine
end

section
/-! PROOFS. The statements about the block's state (10_state.md). -/

namespace Sys2Proof.Machine

open Sys2Proof

/-- Settles O44, by the kind of the next action: each one's operation keeps the invariant. -/
theorem stepKeepsTheInvariant : Obligations.StepKeepsTheInvariant := by
  unfold Obligations.StepKeepsTheInvariant
  intro s h
  have popped : ∀ rest, State.Inv { s with inputs := rest } := fun _ => h
  unfold step
  cases s.inputs with
  | nil => exact engineMove_keeps_inv h
  | cons action rest =>
    cases action with
    | transaction => exact settleOutcome_keeps_inv _ (exec_keeps_inv _ (popped rest))
    | engine => exact engineMove_keeps_inv (popped rest)
    | hardReset => exact ⟨_, rfl, inv_settle _ (inv_hardReset (popped rest))⟩
    | hostWrite addr value => exact ⟨_, rfl, inv_hostWrite addr value (popped rest)⟩
    | hostRead addr => exact ⟨_, rfl, inv_hostRead addr (popped rest)⟩
    | wait => exact pollOutcome_keeps_inv (exec_keeps_inv _ (popped rest))

/-- Settles O30: a register access leaves the engine, and of the commands ABORT and SOFT_RESET alone end the job. -/
theorem onlyAbortAndResetEndARunningJob : Obligations.OnlyAbortAndResetEndARunningJob := by
  unfold Obligations.OnlyAbortAndResetEndARunningJob
  intro i s hp
  have ends_iff : (i = .abort ∨ i = .softReset ∨ i = .wrCmd 2#32 ∨ i = .wrCmd 3#32) ↔
      performedCommand i = some .abort ∨ performedCommand i = some .softReset := by
    rw [performedCommand_eq_abort_iff, performedCommand_eq_softReset_iff]
    tauto
  rw [ends_iff]
  cases hc : performedCommand i with
  | some c =>
    refine ⟨_, exec_of_performedCommand hc s, ?_, fun ht => ?_⟩
    · simp [runCommand_busy_ends_iff hp]
    · obtain ⟨hj, hcur, hacc, hprog, hdone, herr⟩ := runCommand_busy_keeps_job hp c ht
      exact ⟨hj, hcur, hacc, hprog, fun h => hdone ▸ h, fun h => herr ▸ h⟩
  | none =>
    obtain ⟨r, resp, seen, e, hk, -⟩ := exec_access hc s
    exact ⟨_, e, by simp [hp], fun _ => ⟨rfl, rfl, rfl, hk.progress, hk.done, hk.err⟩⟩

/-- Settles O29: neither a register access nor a command reads or writes memory. -/
theorem transactionsNeverTouchMemory : Obligations.TransactionsNeverTouchMemory := by
  unfold Obligations.TransactionsNeverTouchMemory
  intro i s
  cases hc : performedCommand i with
  | some c =>
    have e := exec_of_performedCommand hc s
    have legal : i.mnemonic ≠ "ACC_ILLEGAL" := by
      rw [Ne, mnemonic_eq_accIllegal_iff]
      rintro ⟨size, wr, off, rfl⟩
      cases hc
    exact ⟨_, e, runCommand_platform c s, exec_withMem e, by simp [legal]⟩
  | none =>
    obtain ⟨r, resp, seen, e, -, hresp⟩ := exec_access hc s
    exact ⟨_, e, ⟨fun _ => rfl, rfl, rfl, rfl, rfl⟩, exec_withMem e, hresp⟩

/-- Settles O43, by evaluating the reset state: its registers are sound and it is IDLE. -/
theorem resetHoldsTheResetValues : Obligations.ResetHoldsTheResetValues := by
  unfold Obligations.ResetHoldsTheResetValues
  refine ⟨inv_of_idle wf_reset Regs.sound_reset rfl, rfl, ?_⟩
  decide

end Sys2Proof.Machine
end

section
/-! PROOFS. The samples of a raster: where their bytes lie and in which order, and which of them a job reads and writes. -/

namespace Sys2Proof.Machine

open Sys2Proof

/-! ## One sample of a raster -/

/-- The address of sample `c` of cell `(x, y)` of a raster: the common form of 20_memory.md R43 and R44. -/
def rasterAddr (base stride x y c : Nat) : Nat := base + y * stride + 3 * x + c

theorem srcAddr_eq_rasterAddr (j : Job) (x y c : Nat) :
    j.srcAddr x y c = rasterAddr j.src.toNat j.ss.toNat x y c := rfl

theorem dstAddr_eq_rasterAddr (j : Job) (col row c : Nat) :
    j.dstAddr col row c = rasterAddr j.dst.toNat j.ds.toNat col row c := rfl

/-- Where a row fits its stride, addresses rise in the order of 42_tile_engine.md R117. -/
theorem rasterAddr_lt_of_readBefore {base stride width x y c x' y' c' : Nat} (fits : 3 * width ≤ stride) (hx : x < width)
    (hc : c < 3) (h : ReadBefore x y c x' y' c') : rasterAddr base stride x y c < rasterAddr base stride x' y' c' := by
  unfold rasterAddr
  rcases h with hy | ⟨rfl, hx' | ⟨rfl, hc'⟩⟩
  · have rows : (y + 1) * stride ≤ y' * stride := Nat.mul_le_mul_right stride hy
    rw [Nat.succ_mul] at rows
    omega
  · omega
  · omega

theorem eq_or_readBefore (x y c x' y' c' : Nat) :
    (x = x' ∧ y = y' ∧ c = c') ∨ ReadBefore x y c x' y' c' ∨ ReadBefore x' y' c' x y c := by
  unfold ReadBefore
  omega

/-- Where a row fits its stride, distinct samples have distinct addresses (41_commands.md R104). -/
theorem rasterAddr_injective {base stride width x y c x' y' c' : Nat} (fits : 3 * width ≤ stride) (hx : x < width)
    (hc : c < 3) (hx' : x' < width) (hc' : c' < 3)
    (h : rasterAddr base stride x y c = rasterAddr base stride x' y' c') : x = x' ∧ y = y' ∧ c = c' := by
  rcases eq_or_readBefore x y c x' y' c' with same | before | after
  · exact same
  · exact absurd h (rasterAddr_lt_of_readBefore fits hx hc before).ne
  · exact absurd h (rasterAddr_lt_of_readBefore fits hx' hc' after).ne'

/-- Every sample lies in the range of 20_memory.md R45. -/
theorem rasterAddr_in_range {base stride width height x y c : Nat} (hx : x < width) (hy : y < height) (hc : c < 3) :
    base ≤ rasterAddr base stride x y c ∧
      rasterAddr base stride x y c ≤ base + (height - 1) * stride + 3 * width - 1 := by
  unfold rasterAddr
  have rows : y * stride ≤ (height - 1) * stride := Nat.mul_le_mul_right stride (by omega)
  omega

/-! ## Cells in row-major order -/

/-- The cell `p` comes before `q` in row-major order (42_tile_engine.md R117). -/
def RowMajor (p q : Nat × Nat) : Prop := p.2 < q.2 ∨ (p.2 = q.2 ∧ p.1 < q.1)

theorem RowMajor.ne {p q : Nat × Nat} (h : RowMajor p q) : p ≠ q := by
  rintro rfl
  unfold RowMajor at h
  omega

/-- Row by row, column by column is row-major order. -/
theorem pairwise_rowMajor {xs ys : List Nat} (hx : xs.Pairwise (· < ·)) (hy : ys.Pairwise (· < ·)) :
    (ys.flatMap fun y => xs.map fun x => (x, y)).Pairwise RowMajor := by
  refine List.pairwise_flatMap.2 ⟨fun y _ => ?_, ?_⟩
  · exact List.pairwise_map.2 (hx.imp fun h => .inr ⟨rfl, h⟩)
  · refine hy.imp fun {y y'} h p hp q hq => ?_
    obtain ⟨x, -, rfl⟩ := List.mem_map.1 hp
    obtain ⟨x', -, rfl⟩ := List.mem_map.1 hq
    exact .inl h

theorem tiles_pairwise_rowMajor (j : Job) : j.tiles.Pairwise RowMajor :=
  pairwise_rowMajor List.pairwise_lt_range List.pairwise_lt_range

theorem tilePixels_pairwise_rowMajor (j : Job) (col row : Nat) : (j.tilePixels col row).Pairwise RowMajor :=
  pairwise_rowMajor (List.pairwise_lt_range' 1) (List.pairwise_lt_range' 1)

theorem nodup_of_rowMajor {cells : List (Nat × Nat)} (h : cells.Pairwise RowMajor) : cells.Nodup :=
  h.imp RowMajor.ne

/-! ## The bytes of a list of cells -/

/-- The addresses of the three samples of each cell, in the order of the cells. -/
def rasterBytes (base stride : Nat) (cells : List (Nat × Nat)) : List Nat :=
  cells.flatMap fun p =>
    [rasterAddr base stride p.1 p.2 0, rasterAddr base stride p.1 p.2 1, rasterAddr base stride p.1 p.2 2]

theorem mem_rasterCell (base stride x y a : Nat) :
    a ∈ [rasterAddr base stride x y 0, rasterAddr base stride x y 1, rasterAddr base stride x y 2] ↔
      ∃ c, c < 3 ∧ a = rasterAddr base stride x y c := by
  simp only [List.mem_cons, List.not_mem_nil, or_false]
  constructor
  · rintro (rfl | rfl | rfl)
    · exact ⟨0, by omega, rfl⟩
    · exact ⟨1, by omega, rfl⟩
    · exact ⟨2, by omega, rfl⟩
  · rintro ⟨c, hc, rfl⟩
    interval_cases c <;> simp

theorem mem_rasterBytes (base stride : Nat) (cells : List (Nat × Nat)) (a : Nat) :
    a ∈ rasterBytes base stride cells ↔ ∃ x y c, (x, y) ∈ cells ∧ c < 3 ∧ a = rasterAddr base stride x y c := by
  simp only [rasterBytes, List.mem_flatMap, mem_rasterCell, Prod.exists]
  constructor
  · rintro ⟨x, y, hp, c, hc, rfl⟩
    exact ⟨x, y, c, hp, hc, rfl⟩
  · rintro ⟨x, y, c, hp, hc, rfl⟩
    exact ⟨x, y, hp, c, hc, rfl⟩

theorem rasterCell_pairwise_lt (base stride x y : Nat) :
    [rasterAddr base stride x y 0, rasterAddr base stride x y 1, rasterAddr base stride x y 2].Pairwise (· < ·) := by
  simp [rasterAddr]

/-- The bytes of cells in row-major order rise. -/
theorem rasterBytes_pairwise_lt {base stride width : Nat} {cells : List (Nat × Nat)} (fits : 3 * width ≤ stride)
    (inside : ∀ p ∈ cells, p.1 < width) (h : cells.Pairwise RowMajor) :
    (rasterBytes base stride cells).Pairwise (· < ·) := by
  refine List.pairwise_flatMap.2 ⟨fun p _ => rasterCell_pairwise_lt base stride p.1 p.2, ?_⟩
  refine h.imp_of_mem fun {p q} hp _ hpq a ha b hb => ?_
  obtain ⟨c, hc, rfl⟩ := (mem_rasterCell ..).1 ha
  obtain ⟨c', -, rfl⟩ := (mem_rasterCell ..).1 hb
  exact rasterAddr_lt_of_readBefore fits (inside p hp) hc (hpq.imp_right fun ⟨hy, hx⟩ => ⟨hy, .inl hx⟩)

/-- The bytes of distinct cells are distinct, in whatever order the cells come. -/
theorem rasterBytes_nodup {base stride width : Nat} {cells : List (Nat × Nat)} (fits : 3 * width ≤ stride)
    (inside : ∀ p ∈ cells, p.1 < width) (h : cells.Nodup) : (rasterBytes base stride cells).Nodup := by
  refine List.nodup_flatMap.2 ⟨fun p _ => (rasterCell_pairwise_lt base stride p.1 p.2).imp Nat.ne_of_lt, ?_⟩
  refine h.imp_of_mem fun {p q} hp hq hpq a ha hb => hpq ?_
  obtain ⟨c, hc, rfl⟩ := (mem_rasterCell ..).1 ha
  obtain ⟨c', hc', e⟩ := (mem_rasterCell ..).1 hb
  obtain ⟨hx, hy, -⟩ := rasterAddr_injective fits (inside p hp) hc (inside q hq) hc' e
  exact Prod.ext hx hy

theorem rasterBytes_flatMap {α : Type} (base stride : Nat) (l : List α) (cells : α → List (Nat × Nat)) :
    rasterBytes base stride (l.flatMap cells) = l.flatMap fun t => rasterBytes base stride (cells t) :=
  List.flatMap_assoc

/-! ## The pixels that a job reads -/

/-- The pixels of a tile are those of the image whose coordinates, divided by the block size, are the tile's
(42_tile_engine.md R110). -/
theorem mem_tilePixels_iff_div {j : Job} (hb : 1 ≤ j.b.toNat) (col row x y : Nat) :
    (x, y) ∈ j.tilePixels col row ↔
      (x < j.w.toNat ∧ x / j.b.toNat = col) ∧ y < j.h.toNat ∧ y / j.b.toNat = row := by
  rw [mem_tilePixels, Nat.div_eq_iff hb, Nat.div_eq_iff hb]
  unfold Job.x1 Job.y1 Job.x0 Job.y0
  omega

theorem Job.Startable.block_pos {j : Job} (h : j.Startable) : 1 ≤ j.b.toNat := h.1

/-- The pixels that a job reads, in the order of its tiles. -/
def Job.scan (j : Job) : List (Nat × Nat) := j.tiles.flatMap fun t => j.tilePixels t.1 t.2

/-- A job reads the pixels of the image and no other. -/
theorem Job.Startable.mem_scan {j : Job} (h : j.Startable) (x y : Nat) :
    (x, y) ∈ j.scan ↔ x < j.w.toNat ∧ y < j.h.toNat := by
  simp only [Job.scan, List.mem_flatMap, Prod.exists, mem_tiles, mem_tilePixels_iff_div h.block_pos]
  constructor
  · rintro ⟨col, row, -, ⟨hx, -⟩, hy, -⟩
    exact ⟨hx, hy⟩
  · rintro ⟨hx, hy⟩
    refine ⟨x / j.b.toNat, y / j.b.toNat, ⟨(h.col_lt_iff _).2 ?_, (h.row_lt_iff _).2 ?_⟩, ⟨hx, rfl⟩, hy, rfl⟩
    · exact (Nat.div_mul_le_self x _).trans_lt hx
    · exact (Nat.div_mul_le_self y _).trans_lt hy

/-- A job reads no pixel twice: each lies in one tile. -/
theorem Job.Startable.scan_nodup {j : Job} (h : j.Startable) : j.scan.Nodup := by
  refine List.nodup_flatMap.2 ⟨fun t _ => nodup_of_rowMajor (tilePixels_pairwise_rowMajor j t.1 t.2), ?_⟩
  refine (nodup_of_rowMajor (tiles_pairwise_rowMajor j)).imp fun {t t'} ht p hp hp' => ht ?_
  obtain ⟨⟨-, hcol⟩, -, hrow⟩ := (mem_tilePixels_iff_div h.block_pos t.1 t.2 p.1 p.2).1 hp
  obtain ⟨⟨-, hcol'⟩, -, hrow'⟩ := (mem_tilePixels_iff_div h.block_pos t'.1 t'.2 p.1 p.2).1 hp'
  exact Prod.ext (hcol.symm.trans hcol') (hrow.symm.trans hrow')

/-! ## The accesses of a job as bytes of its rasters -/

theorem tileReads_addrs (j : Job) (col row : Nat) :
    (j.tileReads col row).map Prod.snd = rasterBytes j.src.toNat j.ss.toNat (j.tilePixels col row) := by
  unfold Job.tileReads
  rw [List.map_flatMap]
  rfl

theorem tileWrites_addrs (j : Job) (col row : Nat) (acc : Accumulators) :
    (j.tileWrites col row acc).map Prod.fst = j.tileDst col row := rfl

theorem allReads_eq_rasterBytes (j : Job) :
    (j.tiles.flatMap fun t => (j.tileReads t.1 t.2).map Prod.snd) = rasterBytes j.src.toNat j.ss.toNat j.scan := by
  simp only [tileReads_addrs]
  exact (rasterBytes_flatMap ..).symm

theorem allDst_eq_rasterBytes (j : Job) : j.allDst = rasterBytes j.dst.toNat j.ds.toNat j.tiles := rfl

/-- Every destination byte of the job is one of its writes. -/
theorem mem_allDst (j : Job) (a : Nat) : a ∈ j.allDst ↔ j.Writes a := by
  simp only [allDst_eq_rasterBytes, mem_rasterBytes, mem_tiles, Job.Writes, dstAddr_eq_rasterAddr, and_assoc]

/-! ## Jobs that START accepts -/

/-- The rows of the image and of the Tile Grid fit their strides. -/
theorem Job.Startable.strides {j : Job} (h : j.Startable) :
    3 * j.w.toNat ≤ j.ss.toNat ∧ 3 * j.tx.toNat ≤ j.ds.toNat := by
  obtain ⟨-, -, -, -, hcheck⟩ := h
  exact ((startCheck_none_iff _ j).1 hcheck).2.1

/-- Both ranges end in memory, and they do not meet. -/
theorem Job.Startable.ranges {j : Job} (h : j.Startable) :
    j.srcLast ≤ 0xFFFFFFFF ∧ j.dstLast ≤ 0xFFFFFFFF ∧ (j.srcLast < j.dstFirst ∨ j.dstLast < j.srcFirst) := by
  obtain ⟨-, -, -, -, hcheck⟩ := h
  obtain ⟨-, -, ⟨hsrc, hdst⟩, hapart⟩ := (startCheck_none_iff _ j).1 hcheck
  unfold Config.memSize at hsrc hdst
  exact ⟨by omega, by omega, hapart.symm⟩

theorem srcAddr_in_range (j : Job) {x y c : Nat} (hx : x < j.w.toNat) (hy : y < j.h.toNat) (hc : c < 3) :
    j.srcFirst ≤ j.srcAddr x y c ∧ j.srcAddr x y c ≤ j.srcLast :=
  rasterAddr_in_range hx hy hc

theorem dstAddr_in_range (j : Job) {col row c : Nat} (hx : col < j.tx.toNat) (hy : row < j.ty.toNat) (hc : c < 3) :
    j.dstFirst ≤ j.dstAddr col row c ∧ j.dstAddr col row c ≤ j.dstLast :=
  rasterAddr_in_range hx hy hc

/-- Distinct destination samples have distinct addresses. -/
theorem Job.Startable.dstAddr_injective {j : Job} (h : j.Startable) {col row c col' row' c' : Nat}
    (hx : col < j.tx.toNat) (hc : c < 3) (hx' : col' < j.tx.toNat) (hc' : c' < 3)
    (e : j.dstAddr col row c = j.dstAddr col' row' c') : col = col' ∧ row = row' ∧ c = c' :=
  rasterAddr_injective h.strides.2 hx hc hx' hc' e

/-- No sample that a job reads is a byte that it writes. -/
theorem Job.Startable.srcAddr_not_written {j : Job} (h : j.Startable) {x y c : Nat} (hx : x < j.w.toNat)
    (hy : y < j.h.toNat) (hc : c < 3) : ¬ j.Writes (j.srcAddr x y c) := by
  rintro ⟨col, row, k, hcol, hrow, hk, e⟩
  obtain ⟨-, -, apart⟩ := h.ranges
  have src := srcAddr_in_range j hx hy hc
  have dst := dstAddr_in_range j hcol hrow hk
  omega

/-- The reads of a tile rise: its pixels come in row-major order and lie in the image's columns. -/
theorem Job.Startable.tileReads_pairwise_lt {j : Job} (h : j.Startable) (col row : Nat) :
    ((j.tileReads col row).map Prod.snd).Pairwise (· < ·) := by
  rw [tileReads_addrs]
  refine rasterBytes_pairwise_lt h.strides.1 (fun p hp => ?_) (tilePixels_pairwise_rowMajor j col row)
  obtain ⟨⟨hx, -⟩, -⟩ := (mem_tilePixels_iff_div h.block_pos col row p.1 p.2).1 hp
  exact hx

theorem Job.Startable.allReads_nodup {j : Job} (h : j.Startable) :
    (rasterBytes j.src.toNat j.ss.toNat j.scan).Nodup :=
  rasterBytes_nodup h.strides.1 (fun p hp => ((h.mem_scan p.1 p.2).1 hp).1) h.scan_nodup

theorem Job.Startable.allDst_nodup {j : Job} (h : j.Startable) : j.allDst.Nodup :=
  rasterBytes_nodup h.strides.2 (fun p hp => ((mem_tiles j p.1 p.2).1 hp).1)
    (nodup_of_rowMajor (tiles_pairwise_rowMajor j))

/-! ## The sample of a destination byte -/

/-- The sample that an address is found to be is one of the job's, at that address. -/
theorem dstSample_some {j : Job} {a : Nat} {d : Nat × Nat × Nat} (h : j.dstSample a = some d) :
    d.1 < j.tx.toNat ∧ d.2.1 < j.ty.toNat ∧ d.2.2 < 3 ∧ j.dstAddr d.1 d.2.1 d.2.2 = a := by
  have hd := List.mem_of_find?_eq_some h
  simp only [List.mem_flatMap, List.mem_cons, List.not_mem_nil, or_false] at hd
  obtain ⟨⟨col, row⟩, ht, hd⟩ := hd
  obtain ⟨hcol, hrow⟩ := (mem_tiles j col row).1 ht
  obtain ⟨rfl, rfl, hc⟩ : d.1 = col ∧ d.2.1 = row ∧ d.2.2 < 3 := by
    rcases hd with rfl | rfl | rfl <;> simp
  exact ⟨hcol, hrow, hc, by simpa using List.find?_some h⟩

theorem dstSample_eq_none_of_not_writes {j : Job} {a : Nat} (h : ¬ j.Writes a) : j.dstSample a = none := by
  rw [Option.eq_none_iff_forall_ne_some]
  intro d hd
  obtain ⟨hcol, hrow, hc, e⟩ := dstSample_some hd
  exact h ⟨d.1, d.2.1, d.2.2, hcol, hrow, hc, e.symm⟩

theorem dstSample_ne_none {j : Job} {col row c : Nat} (hcol : col < j.tx.toNat) (hrow : row < j.ty.toNat) (hc : c < 3) :
    j.dstSample (j.dstAddr col row c) ≠ none := by
  have sample : (col, row, c) ∈ [(col, row, 0), (col, row, 1), (col, row, 2)] := by
    interval_cases c <;> simp
  intro hnone
  refine List.find?_eq_none.1 hnone (col, row, c) ?_ (by simp)
  exact List.mem_flatMap.2 ⟨(col, row), (mem_tiles j col row).2 ⟨hcol, hrow⟩, sample⟩

/-- A destination byte of a job that START accepts is found to be its own sample. -/
theorem Job.Startable.dstSample_dstAddr {j : Job} (h : j.Startable) {col row c : Nat} (hcol : col < j.tx.toNat)
    (hrow : row < j.ty.toNat) (hc : c < 3) : j.dstSample (j.dstAddr col row c) = some (col, row, c) := by
  obtain ⟨d, hd⟩ := Option.ne_none_iff_exists'.1 (dstSample_ne_none hcol hrow hc)
  obtain ⟨hcol', -, hc', e⟩ := dstSample_some hd
  obtain ⟨h1, h2, h3⟩ := h.dstAddr_injective hcol' hc' hcol hc e
  rw [hd]
  exact congrArg some (Prod.ext h1 (Prod.ext h2 h3))

end Sys2Proof.Machine
end

section
/-! PROOFS. What the host and the engine see of memory: canonical memories, one access of the engine, and a read of the
host. -/

namespace Sys2Proof.Machine

open Sys2Proof

/-! ## Canonical memories -/

@[simp] theorem read_cons_same (b : Nat) (w : Byte) (rest : Memory) : Memory.read ((b, w) :: rest) b = w := by
  simp [Memory.read]

theorem read_cons_ne {a b : Nat} (h : a ≠ b) (w : Byte) (rest : Memory) :
    Memory.read ((b, w) :: rest) a = Memory.read rest a := by
  simp [Memory.read, h.symm]

/-- Where a canonical list holds another byte than the blank one, its first address is no higher. -/
theorem head_le_of_read_ne_blank {low a b : Nat} {w : Byte} {rest : Memory}
    (hm : Memory.wfAbove low ((b, w) :: rest) = true) (ha : Memory.read ((b, w) :: rest) a ≠ Config.blankByte) : b ≤ a := by
  obtain ⟨-, hb⟩ := (wfAbove_cons low b w rest).1 hm
  by_contra h
  exact ha (read_below b a _ ((wfAbove_cons b b w rest).2 ⟨le_rfl, hb⟩) (not_le.1 h))

/-- Canonical lists that read alike are the same list: they have the same head, and their tails read alike. -/
theorem wfAbove_ext {low low' : Nat} {m m' : Memory} (hm : Memory.wfAbove low m = true)
    (hm' : Memory.wfAbove low' m' = true) (same : ∀ a, Memory.read m a = Memory.read m' a) : m = m' := by
  induction m generalizing low low' m' with
  | nil =>
    cases m' with
    | nil => rfl
    | cons e' rest' =>
      obtain ⟨b', w'⟩ := e'
      obtain ⟨-, -, hw', -⟩ := (wfAbove_cons low' b' w' rest').1 hm'
      exact absurd ((same b').trans (read_cons_same b' w' rest')).symm hw'
  | cons e rest ih =>
    obtain ⟨b, w⟩ := e
    obtain ⟨-, -, hw, hrest⟩ := (wfAbove_cons low b w rest).1 hm
    have hb := (read_cons_same b w rest).symm.trans (same b)
    cases m' with
    | nil => exact absurd hb hw
    | cons e' rest' =>
      obtain ⟨b', w'⟩ := e'
      obtain ⟨-, -, hw', hrest'⟩ := (wfAbove_cons low' b' w' rest').1 hm'
      have hb' := (same b').trans (read_cons_same b' w' rest')
      have le : b ≤ b' := head_le_of_read_ne_blank hm (hb'.symm ▸ hw')
      have ge : b' ≤ b := head_le_of_read_ne_blank hm' (hb ▸ hw)
      obtain rfl : b = b' := le_antisymm le ge
      obtain rfl : w = w' := by rw [hb, read_cons_same]
      have tails : rest = rest' := ih hrest hrest' fun a => by
        by_cases ha : a = b
        · subst ha
          rw [read_below _ _ _ hrest (Nat.lt_succ_self _), read_below _ _ _ hrest' (Nat.lt_succ_self _)]
        · rw [← read_cons_ne ha w rest, same a, read_cons_ne ha w rest']
      rw [tails]

/-! ## A read of the host -/

/-- Where no unseen job has an early value for the byte, the host reads what memory holds. -/
theorem hostRead_of_no_early {addr : Word} {s : State} (h : earlyRead s.mem s.unsynced addr.toNat s.draws = none) :
    (hostRead addr s).hostByte = Memory.read s.mem addr.toNat := by
  rcases hostRead_cases addr s with ⟨-, e⟩ | ⟨v, hv, -⟩
  · rw [e]
  · rw [h] at hv
    cases hv

/-- A byte that no unseen job writes is read as memory holds it. -/
theorem hostRead_of_not_written {addr : Word} {s : State} (h : ∀ r ∈ s.unsynced, ¬ r.job.Writes addr.toNat) :
    (hostRead addr s).hostByte = Memory.read s.mem addr.toNat := by
  refine hostRead_of_no_early ?_
  rcases earlyRead_cases s.mem s.unsynced addr.toNat s.draws with ⟨e, -⟩ | ⟨newer, r, older, d, hrs, -, hd, -⟩
  · exact e
  · have listed : r ∈ s.unsynced := by simp [hrs]
    rw [dstSample_eq_none_of_not_writes (h r listed)] at hd
    cases hd

/-- The newest record decides on a byte that its job writes. -/
theorem earlyRead_newest (m : Memory) {r : JobRecord} {a : Nat} {d : Nat × Nat × Nat} (hd : r.job.dstSample a = some d)
    (older : List JobRecord) (n : Nat) :
    earlyRead m (r :: older) a n = if r.job.dstIndex d < r.visible then none else some (earlyByte m r d n) := by
  simp [earlyRead, hd]

/-- The early value of an unraced job's byte is the one at START, the job's, or the one in memory. -/
theorem earlyByte_cases (m : Memory) {r : JobRecord} (hr : r.raced = false) (d : Nat × Nat × Nat) (n : Nat) :
    earlyByte m r d n = Memory.read r.startMem (r.job.dstAddr d.1 d.2.1 d.2.2) ∨
      earlyByte m r d n = jobByte r.startMem r.job d.1 d.2.1 d.2.2 ∨
      earlyByte m r d n = Memory.read m (r.job.dstAddr d.1 d.2.1 d.2.2) := by
  simp only [earlyByte, hr, Bool.false_eq_true, if_false]
  split_ifs <;> simp

/-- A byte is among those that a job has written where PROGRESS counts its tile or the whole grid, or where the job ended at a
later byte of its tile (42_tile_engine.md R117, R119). -/
theorem dstIndex_lt_bytesWritten {j : Job} {cur : Cursor} {r : Regs} {col row c : Nat} (hcol : col < j.tx.toNat)
    (hrow : row < j.ty.toNat) (hc : c < 3)
    (h : (j.tx.toNat * j.ty.toNat ≤ r.progress.toNat ∨ row * j.tx.toNat + col < r.progress.toNat) ∨
      (r.errCode = .busWrite ∧ cur.cby.toNat * j.tx.toNat + cur.cbx.toNat ≤ r.progress.toNat ∧ col = cur.cbx.toNat ∧
        row = cur.cby.toNat ∧ j.dstAddr col row c < r.errAddr.toNat)) :
    j.dstIndex (col, row, c) < bytesWritten j cur r := by
  have inGrid : row * j.tx.toNat + col < j.tx.toNat * j.ty.toNat := by
    have rows : (row + 1) * j.tx.toNat ≤ j.ty.toNat * j.tx.toNat := Nat.mul_le_mul_right _ hrow
    rw [Nat.succ_mul, Nat.mul_comm j.ty.toNat] at rows
    omega
  unfold Job.dstIndex bytesWritten
  rcases h with counted | ⟨hcode, hcount, rfl, rfl, haddr⟩
  · have tile : row * j.tx.toNat + col < r.progress.toNat := counted.elim inGrid.trans_le id
    dsimp only
    omega
  · have place : j.dstAddr cur.cbx.toNat cur.cby.toNat c = j.dstAddr cur.cbx.toNat cur.cby.toNat 0 + c := rfl
    rw [if_pos hcode]
    dsimp only
    omega

/-- A STATUS read that returns DONE or ERR leaves no job unseen, and leaves memory. -/
theorem exec_rdStatus_of_ended {s : State} (h : s.regs.done = true ∨ s.regs.err = true) :
    ∃ t, exec .rdStatus s = .next t ∧ t.unsynced = [] ∧ t.mem = s.mem := by
  have seen : (s.regs.done || s.regs.err) = true := by simpa using h
  exact ⟨_, rfl, by simp [seen], rfl⟩

/-- While IDLE a write of an agent changes memory and nothing else. -/
theorem hostWrite_idle (addr : Word) (value : Byte) {s : State} (h : s.phase = .idle) :
    hostWrite addr value s = { s with mem := Memory.write s.mem addr.toNat value } := by
  simp [hostWrite, h]

end Sys2Proof.Machine
end

section
/-! PROOFS. What a step does, by the kind of the next action, and what it does to the records of unseen jobs. -/

namespace Sys2Proof.Machine

open Sys2Proof

/-! ## One step, by the next action -/

/-- The state with the next action taken off. -/
def State.popped (s : State) : State := { s with inputs := s.inputs.tail }

theorem popped_of_inputs {s : State} {action : Action} {rest : List Action} (h : s.inputs = action :: rest) :
    s.popped = { s with inputs := rest } := by
  simp [State.popped, h]

theorem popped_of_no_inputs {s : State} (h : s.inputs = []) : s.popped = s := by
  unfold State.popped
  rw [h, List.tail_nil, ← h]

theorem step_nil {s : State} (h : s.inputs = []) : step s = engineMove s.popped := by
  rw [popped_of_no_inputs h]
  simp only [step, h]

theorem step_transaction {s : State} {key : Key} {data : Word} {rest : List Action}
    (h : s.inputs = .transaction key data :: rest) :
    step s = settleOutcome s.popped (exec (decode (.tx key data)) s.popped) := by
  rw [popped_of_inputs h]
  simp only [step, h]

theorem step_engine {s : State} {rest : List Action} (h : s.inputs = .engine :: rest) :
    step s = engineMove s.popped := by
  rw [popped_of_inputs h]
  simp only [step, h]

theorem step_hardReset {s : State} {rest : List Action} (h : s.inputs = .hardReset :: rest) :
    step s = .next (settle s.popped (hardReset s.popped)) := by
  rw [popped_of_inputs h]
  simp only [step, h]

theorem step_hostWrite {s : State} {addr : Word} {value : Byte} {rest : List Action}
    (h : s.inputs = .hostWrite addr value :: rest) : step s = .next (hostWrite addr value s.popped) := by
  rw [popped_of_inputs h]
  simp only [step, h]

theorem step_hostRead {s : State} {addr : Word} {rest : List Action} (h : s.inputs = .hostRead addr :: rest) :
    step s = .next (hostRead addr s.popped) := by
  rw [popped_of_inputs h]
  simp only [step, h]

theorem decode_waitKey : decode (.tx waitKey 0#32) = .rdStatus := by decide

theorem step_wait {s : State} {rest : List Action} (h : s.inputs = .wait :: rest) :
    step s = pollOutcome (exec .rdStatus s.popped) := by
  rw [popped_of_inputs h]
  simp only [step, h, decode_waitKey]

/-- What the block may do in a step, before the platform settles it: run a transaction, move the engine, or reset. -/
inductive BlockMove (s : State) : State → Prop where
  | transaction {t : State} (i : Instr) (h : exec i s = .next t) : BlockMove s t
  | engine {t : State} (h : tileStep s = .next t) : BlockMove s t
  | reset : BlockMove s (hardReset s)

/-- What settling an outcome answers is a settled answer of it. -/
theorem settleOutcome_eq_next {before t : State} {out : Host.Outcome State Fault Refusal}
    (h : settleOutcome before out = .next t) : ∃ u, out = .next u ∧ t = settle before u := by
  cases out with
  | next u => exact ⟨u, rfl, (Host.Outcome.next.inj h).symm⟩
  | fault | refused => cases h

/-- A poll is a read of STATUS, which leaves the phase. -/
theorem exec_rdStatus_phase (s : State) : ∃ u, exec .rdStatus s = .next u ∧ u.phase = s.phase := ⟨_, rfl, rfl⟩

theorem pollAgain_changes_inputs (s : State) : pollAgain s = { s with inputs := (pollAgain s).inputs } := by
  rcases pollAgain_cases s with ⟨-, e⟩ | ⟨-, e⟩ <;> rw [e]

/-- A step is a settled move of the block, after which more actions may be pending (70_reset_and_hazards.md R151), or an
access of an agent to memory. -/
theorem step_cases {s t : State} (h : step s = .next t) :
    (∃ u next, BlockMove s.popped u ∧ t = { settle s.popped u with inputs := next }) ∨
      (∃ addr value, t = hostWrite addr value s.popped) ∨ ∃ addr, t = hostRead addr s.popped := by
  have settled {out : Host.Outcome State Fault Refusal} (move : ∀ u, out = .next u → BlockMove s.popped u)
      (ht : settleOutcome s.popped out = .next t) :
      ∃ u next, BlockMove s.popped u ∧ t = { settle s.popped u with inputs := next } := by
    obtain ⟨u, hu, rfl⟩ := settleOutcome_eq_next ht
    exact ⟨u, _, move u hu, rfl⟩
  cases hin : s.inputs with
  | nil => exact .inl (settled (fun _ => .engine) ((step_nil hin).symm.trans h))
  | cons action rest =>
    cases action with
    | transaction key data => exact .inl (settled (fun _ => .transaction _) ((step_transaction hin).symm.trans h))
    | engine => exact .inl (settled (fun _ => .engine) ((step_engine hin).symm.trans h))
    | hardReset =>
      obtain rfl := Host.Outcome.next.inj ((step_hardReset hin).symm.trans h)
      exact .inl ⟨_, _, .reset, rfl⟩
    | hostWrite addr value => exact .inr (.inl ⟨addr, value, Host.Outcome.next.inj (h.symm.trans (step_hostWrite hin))⟩)
    | hostRead addr => exact .inr (.inr ⟨addr, Host.Outcome.next.inj (h.symm.trans (step_hostRead hin))⟩)
    | wait =>
      obtain ⟨u, hu, hp⟩ := exec_rdStatus_phase s.popped
      rw [step_wait hin, hu] at h
      obtain rfl := Host.Outcome.next.inj h
      refine .inl ⟨u, (pollAgain u).inputs, .transaction .rdStatus hu, ?_⟩
      rw [settle_same_phase _ _ hp]
      exact pollAgain_changes_inputs u

/-! ## What a move of the block leaves of the records -/

theorem startIdle_unsynced (s : State) : (startIdle s).unsynced = s.unsynced := by
  rcases startIdle_cases s with ⟨-, e⟩ | ⟨-, e⟩ <;> rw [e] <;> rfl

/-- No command touches the records. -/
theorem runCommand_unsynced (c : Command) (s : State) : (runCommand c s).unsynced = s.unsynced := by
  cases c with
  | nop | softReset | reserved => rfl
  | start =>
    cases h : s.phase with
    | idle => rw [runCommand_start_idle h]; exact startIdle_unsynced s
    | busy => rw [runCommand_start_busy h]; rfl
  | abort =>
    cases h : s.phase with
    | idle => rw [runCommand_abort_idle h]
    | busy => rw [runCommand_abort_busy h]; rfl

theorem exec_command_unsynced {i : Instr} {c : Command} (hc : performedCommand i = some c) {s t : State}
    (h : exec i s = .next t) : t.unsynced = s.unsynced := by
  obtain rfl := Host.Outcome.next.inj ((exec_of_performedCommand hc s).symm.trans h)
  exact runCommand_unsynced c s

/-- Of the transactions only a STATUS read that returns DONE or ERR touches the records. -/
theorem exec_unsynced {i : Instr} {s t : State} (h : exec i s = .next t) (hd : s.regs.done = false)
    (he : s.regs.err = false) : t.unsynced = s.unsynced := by
  cases hc : performedCommand i with
  | some c => exact exec_command_unsynced hc h
  | none =>
    cases i with
    | wrCmd | nop | start | abort | softReset | cmdReserved => cases hc
    | rdStatus =>
      obtain rfl := Host.Outcome.next.inj h
      simp [hd, he]
    | _ =>
      obtain rfl := Host.Outcome.next.inj h
      rfl

/-- A transaction leaves memory as data: it works the same whatever memory it is given. -/
theorem exec_mem {i : Instr} {s t : State} (h : exec i s = .next t) : t.mem = s.mem := by
  have again : exec i s = .next { t with mem := s.mem } := exec_withMem h s.mem
  have same : t = { t with mem := s.mem } := Host.Outcome.next.inj (h.symm.trans again)
  exact (congrArg State.mem same :)

/-- A transaction that begins a job is a command, which leaves the records. -/
theorem exec_begins_unsynced {i : Instr} {s t : State} (h : exec i s = .next t) (hs : s.phase = .idle)
    (ht : t.phase = .busy) : t.unsynced = s.unsynced := by
  cases hc : performedCommand i with
  | some c => exact exec_command_unsynced hc h
  | none =>
    obtain ⟨r, resp, seen, e, -⟩ := exec_access hc s
    obtain rfl := Host.Outcome.next.inj (e.symm.trans h)
    simp [hs] at ht

/-- A tile step leaves the job, the mark of a race and the records. -/
theorem processTile_records (s : State) :
    (processTile s).job = s.job ∧ (processTile s).raced = s.raced ∧ (processTile s).unsynced = s.unsynced := by
  rcases processTile_cases s with ⟨_, _, _, _, -, -, -, e⟩ | ⟨-, _, _, _, _, -, -, -, e⟩ | ⟨-, -, e⟩
  · rw [e]; exact ⟨rfl, rfl, rfl⟩
  · rw [e]; exact ⟨rfl, rfl, rfl⟩
  · rw [e]
    rcases advance_cases { s with acc := s.curAcc, mem := writeAll s.curWrites s.mem } with
      ⟨-, e⟩ | ⟨-, -, e⟩ | ⟨-, -, e⟩ <;> rw [e] <;> exact ⟨rfl, rfl, rfl⟩

/-- An engine that moves finds an IDLE block and leaves it, or performs a tile step. -/
theorem tileStep_eq_next {s t : State} (h : tileStep s = .next t) :
    (s.phase = .idle ∧ t = s) ∨ (s.phase = .busy ∧ t = processTile s) := by
  unfold tileStep at h
  split at h
  · exact .inl ⟨‹_›, (Host.Outcome.next.inj h).symm⟩
  · split at h
    · exact .inr ⟨‹_›, (Host.Outcome.next.inj h).symm⟩
    · cases h

/-- While BUSY no move of the block touches the records: a STATUS read cannot return DONE or ERR. -/
theorem BlockMove.unsynced {s t : State} (h : BlockMove s t) (inv : s.Inv) (hp : s.phase = .busy) :
    t.unsynced = s.unsynced := by
  cases h with
  | transaction i h =>
    obtain ⟨-, -, running⟩ := (inv_iff s).1 inv
    obtain ⟨hd, he, -⟩ := running hp
    exact exec_unsynced h hd he
  | engine h =>
    rcases tileStep_eq_next h with ⟨-, rfl⟩ | ⟨-, rfl⟩
    · rfl
    · obtain ⟨-, -, e⟩ := processTile_records s
      exact e
  | reset =>
    obtain ⟨-, -, -, -, -, -, -, -, e⟩ := hardReset_frame s
    exact e

/-- A move that leaves the block BUSY leaves the job and the mark of a race. -/
theorem BlockMove.keeps_job {s t : State} (h : BlockMove s t) (hp : s.phase = .busy) (ht : t.phase = .busy) :
    t.job = s.job ∧ t.raced = s.raced := by
  cases h with
  | transaction i h =>
    obtain ⟨u, e, -, keeps⟩ := onlyAbortAndResetEndARunningJob i s hp
    obtain ⟨v, e', ⟨-, -, -, -, raced⟩, -⟩ := transactionsNeverTouchMemory i s
    obtain rfl := Host.Outcome.next.inj (e.symm.trans h)
    obtain rfl := Host.Outcome.next.inj (e'.symm.trans h)
    exact ⟨(keeps ht).1, raced⟩
  | engine h =>
    rcases tileStep_eq_next h with ⟨-, rfl⟩ | ⟨-, rfl⟩
    · exact ⟨rfl, rfl⟩
    · obtain ⟨job, raced, -⟩ := processTile_records s
      exact ⟨job, raced⟩
  | reset =>
    obtain ⟨-, idle, -⟩ := hardReset_frame s
    simp [idle] at ht

/-- A move that begins a job is a START: it leaves memory and the records. -/
theorem BlockMove.begins {s t : State} (h : BlockMove s t) (hp : s.phase = .idle) (ht : t.phase = .busy) :
    t.mem = s.mem ∧ t.unsynced = s.unsynced := by
  cases h with
  | transaction i h => exact ⟨exec_mem h, exec_begins_unsynced h hp ht⟩
  | engine h =>
    rcases tileStep_eq_next h with ⟨-, rfl⟩ | ⟨hb, -⟩
    · simp [hp] at ht
    · simp [hp] at hb
  | reset =>
    obtain ⟨-, idle, -⟩ := hardReset_frame s
    simp [idle] at ht

/-! ## What settling does to the records -/

/-- A job that begins has its record in front, with the memory of that state. -/
theorem settle_begins {before after : State} (hb : before.phase = .idle) (ha : after.phase = .busy) :
    settle before after = jobBegan after := by
  simp [settle, hb, ha]

/-- Where a job ends, its record is at most marked as visible. -/
theorem settle_ends_unsynced {before after : State} (hb : before.phase = .busy) (ha : after.phase = .idle) :
    (settle before after).unsynced = after.unsynced ∨
      ∃ n, (settle before after).unsynced = markVisible n after.unsynced := by
  have ended : (jobEnded before.job before.raced after).unsynced = after.unsynced := by
    unfold jobEnded
    split <;> rfl
  have e : settle before after = irqSeen before (jobEnded before.job before.raced after) := by simp [settle, hb, ha]
  rw [e, ← ended]
  rcases irqSeen_cases before (jobEnded before.job before.raced after) with ⟨-, -, e⟩ | ⟨-, e⟩
  · rw [e]; exact .inr ⟨_, rfl⟩
  · rw [e]; exact .inl rfl

/-- The record keeps the job and its memory, and a race once noted. -/
def JobRecord.Continues (r r' : JobRecord) : Prop :=
  r'.job = r.job ∧ r'.startMem = r.startMem ∧ (r.raced = true → r'.raced = true)

theorem JobRecord.Continues.refl (r : JobRecord) : r.Continues r := ⟨rfl, rfl, id⟩

/-- Settling a move of a BUSY block leaves the newest record the job's, and the older ones. -/
theorem settle_keeps_record {s u : State} {r : JobRecord} {older : List JobRecord} (hp : s.phase = .busy)
    (hu : u.unsynced = r :: older) : ∃ r', (settle s u).unsynced = r' :: older ∧ r.Continues r' := by
  cases hup : u.phase with
  | busy => exact ⟨r, by rw [settle_same_phase s u (hup.trans hp.symm), hu], .refl r⟩
  | idle =>
    rcases settle_ends_unsynced hp hup with e | ⟨n, e⟩
    · exact ⟨r, e.trans hu, .refl r⟩
    · exact ⟨{ r with visible := n }, by rw [e, hu]; rfl, rfl, rfl, id⟩

/-- A move of the block, settled, leaves the newest record the running job's. -/
theorem BlockMove.settle_recordsJob {s u : State} (h : BlockMove s u) (inv : s.Inv) (hr : s.RecordsJob) :
    (settle s u).RecordsJob := by
  intro ht
  have hu : u.phase = .busy := by
    obtain ⟨-, -, e, -⟩ := settle_frame s u
    exact e.symm.trans ht
  rcases s.phase.idle_or_busy with hs | hs
  · rw [settle_begins hs hu]
    exact ⟨_, _, rfl, rfl, rfl, rfl⟩
  · obtain ⟨r, older, hrs, job, raced, visible⟩ := hr hs
    obtain ⟨job', raced'⟩ := h.keeps_job hs hu
    rw [settle_same_phase s u (hu.trans hs.symm)]
    exact ⟨r, older, (h.unsynced inv hs).trans hrs, job.trans job'.symm, raced.trans raced'.symm, visible⟩

/-! ## Accesses of agents and the records -/

/-- A write of an agent into a running job's ranges marks the newest record, and otherwise leaves the records. -/
theorem hostWrite_cases (addr : Word) (value : Byte) (s : State) :
    ((hostWrite addr value s).unsynced = s.unsynced ∧ (hostWrite addr value s).raced = s.raced) ∨
      ((hostWrite addr value s).unsynced = markRaced s.unsynced ∧ (hostWrite addr value s).raced = true) := by
  unfold hostWrite
  split
  · exact .inl ⟨rfl, rfl⟩
  · split
    · exact .inr ⟨rfl, rfl⟩
    · exact .inl ⟨rfl, rfl⟩

theorem hostWrite_recordsJob (addr : Word) (value : Byte) {s : State} (h : s.RecordsJob) :
    (hostWrite addr value s).RecordsJob := by
  obtain ⟨-, -, job, phase, -⟩ := hostWrite_frame addr value s
  intro hp
  obtain ⟨r, older, hrs, hj, hraced, hv⟩ := h (phase ▸ hp)
  rcases hostWrite_cases addr value s with ⟨seen, raced⟩ | ⟨seen, raced⟩
  · exact ⟨r, older, seen.trans hrs, hj.trans job.symm, hraced.trans raced.symm, hv⟩
  · exact ⟨{ r with raced := true }, older, by rw [seen, hrs]; rfl, hj.trans job.symm, raced.symm, hv⟩

theorem hostWrite_keeps_record (addr : Word) (value : Byte) {s : State} {r : JobRecord} {older : List JobRecord}
    (h : s.unsynced = r :: older) : ∃ r', (hostWrite addr value s).unsynced = r' :: older ∧ r.Continues r' := by
  rcases hostWrite_cases addr value s with ⟨seen, -⟩ | ⟨seen, -⟩
  · exact ⟨r, seen.trans h, .refl r⟩
  · exact ⟨{ r with raced := true }, by rw [seen, h]; rfl, rfl, rfl, fun _ => rfl⟩

/-- A read of the host changes its byte and the draws, and nothing else. -/
theorem hostRead_frame (addr : Word) (s : State) :
    (hostRead addr s).mem = s.mem ∧ (hostRead addr s).regs = s.regs ∧ (hostRead addr s).job = s.job ∧
      (hostRead addr s).phase = s.phase ∧ (hostRead addr s).inputs = s.inputs ∧ (hostRead addr s).raced = s.raced ∧
      (hostRead addr s).unsynced = s.unsynced := by
  rcases hostRead_cases addr s with ⟨-, e⟩ | ⟨v, -, e⟩ <;> rw [e] <;> exact ⟨rfl, rfl, rfl, rfl, rfl, rfl, rfl⟩

theorem hostRead_recordsJob (addr : Word) {s : State} (h : s.RecordsJob) : (hostRead addr s).RecordsJob := by
  obtain ⟨-, -, job, phase, -, raced, seen⟩ := hostRead_frame addr s
  unfold State.RecordsJob
  rw [job, phase, raced, seen]
  exact h

/-- A step that changes the phase is a settled move of the block. -/
theorem step_changes_phase {s t : State} (h : step s = .next t) (hp : t.phase ≠ s.phase) :
    ∃ u, BlockMove s.popped u ∧ u.phase = t.phase ∧ t.regs = u.regs ∧ t.job = u.job ∧
      t.unsynced = (settle s.popped u).unsynced := by
  rcases step_cases h with ⟨u, next, move, rfl⟩ | ⟨addr, value, rfl⟩ | ⟨addr, rfl⟩
  · obtain ⟨regs, job, phase, -⟩ := settle_frame s.popped u
    exact ⟨u, move, phase.symm, regs, job, rfl⟩
  · obtain ⟨-, -, -, phase, -⟩ := hostWrite_frame addr value s.popped
    exact absurd phase hp
  · obtain ⟨-, -, -, phase, -⟩ := hostRead_frame addr s.popped
    exact absurd phase hp

/-! ## How far a job was when it ended -/

/-- A last tile that is counted makes PROGRESS the number of tiles. -/
theorem progress_of_last_tile {s : State} (h : s.Running) (hx : ¬ s.cursor.cbx.toNat + 1 < s.job.tx.toNat)
    (hy : ¬ s.cursor.cby.toNat + 1 < s.job.ty.toNat) :
    (s.regs.progress + 1#32).toNat = s.job.tx.toNat * s.job.ty.toNat := by
  have count := progress_add_one h
  obtain ⟨-, -, -, hcol, hrow, -⟩ := h
  obtain hcol : s.cursor.cbx.toNat + 1 = s.job.tx.toNat := by omega
  obtain hrow : s.cursor.cby.toNat + 1 = s.job.ty.toNat := by omega
  rw [count, Nat.add_assoc, hcol, ← hrow, Nat.mul_succ, Nat.mul_comm]

/-- The tile step of a running job never takes PROGRESS back, and with DONE it counts every tile. -/
theorem processTile_progress {s : State} (h : s.Running) :
    s.regs.progress.toNat ≤ (processTile s).regs.progress.toNat ∧
      ((processTile s).regs.done = true → (processTile s).regs.progress.toNat = s.job.tx.toNat * s.job.ty.toNat) := by
  have ⟨done, _, _, _, _, count⟩ := h
  have counted : s.regs.progress.toNat ≤ (s.regs.progress + 1#32).toNat := by
    rw [progress_add_one h, ← count]
    exact Nat.le_succ _
  have hdone : s.regs.done ≠ true := by simp [done]
  rcases processTile_cases s with ⟨_, _, _, _, -, -, -, e⟩ | ⟨-, _, _, _, _, -, -, -, e⟩ | ⟨-, -, e⟩
  · rw [e]; exact ⟨le_rfl, fun hd => absurd hd hdone⟩
  · rw [e]; exact ⟨le_rfl, fun hd => absurd hd hdone⟩
  · rw [e]
    rcases advance_cases { s with acc := s.curAcc, mem := writeAll s.curWrites s.mem } with
      ⟨-, e⟩ | ⟨-, -, e⟩ | ⟨hx, hy, e⟩
    · rw [e]; exact ⟨counted, fun hd => absurd hd hdone⟩
    · rw [e]; exact ⟨counted, fun hd => absurd hd hdone⟩
    · rw [e]; exact ⟨counted, fun _ => progress_of_last_tile h hx hy⟩

/-- A move that ends a job and leaves irq up never took PROGRESS back, and with DONE it counted every tile: a reset would
have cleared irq. -/
theorem BlockMove.progress_of_end {s t : State} (h : BlockMove s t) (running : s.Running) (hp : s.phase = .busy)
    (ht : t.phase = .idle) (hirq : t.irq = true) :
    s.regs.progress.toNat ≤ t.regs.progress.toNat ∧
      (t.regs.done = true → t.regs.progress.toNat = s.job.tx.toNat * s.job.ty.toNat) := by
  have noReset : t.regs ≠ Regs.reset := by
    intro e
    unfold State.irq at hirq
    rw [e] at hirq
    cases hirq
  cases h with
  | transaction i h =>
    cases hc : performedCommand i with
    | some c =>
      obtain rfl := Host.Outcome.next.inj ((exec_of_performedCommand hc s).symm.trans h)
      rcases (runCommand_busy_ends_iff hp c).1 ht with rfl | rfl
      · rw [runCommand_abort_busy hp]
        obtain ⟨done, -⟩ := running
        exact ⟨le_rfl, fun hd => absurd hd (by simp [done])⟩
      · exact absurd rfl noReset
    | none =>
      obtain ⟨r, resp, seen, e, -⟩ := exec_access hc s
      obtain rfl := Host.Outcome.next.inj (e.symm.trans h)
      simp [hp] at ht
  | engine h =>
    rcases tileStep_eq_next h with ⟨idle, -⟩ | ⟨-, rfl⟩
    · simp [hp] at idle
    · exact processTile_progress running
  | reset =>
    obtain ⟨regs, -⟩ := hardReset_frame s
    exact absurd regs noReset

/-- A step that ends a job and raises irq marks the newest record with the bytes that the job has written, and leaves the
registers and the records behind. -/
theorem step_raises_irq {s t : State} (inv : s.Inv) (h : step s = .next t) (hp : s.phase = .busy) (ht : t.phase = .idle)
    (hi : s.irq = false) (hr : t.irq = true) :
    t.unsynced = markVisible (bytesWritten s.job s.cursor t.regs) s.unsynced ∧
      s.regs.progress.toNat ≤ t.regs.progress.toNat ∧
      (t.regs.done = true → t.regs.progress.toNat = s.job.tx.toNat * s.job.ty.toNat) := by
  obtain ⟨u, move, hu, regs, -, seen⟩ := step_changes_phase h (by simp [hp, ht])
  obtain ⟨-, -, running⟩ := (inv_iff s).1 inv
  rw [ht] at hu
  unfold State.irq at hr
  rw [regs] at hr ⊢
  refine ⟨?_, move.progress_of_end (running hp) hp hu hr⟩
  rw [seen, settle_irq_rises s.popped u hp hu hi hr, move.unsynced inv hp]
  rfl

end Sys2Proof.Machine
end

section
/-! PROOFS. The statements about memory and the order of accesses (20_memory.md). -/

namespace Sys2Proof.Machine

open Sys2Proof

/-- Settles O38: START's stride checks keep samples apart, and its range and overlap checks are about the ranges' ends. -/
theorem jobAddressesLieInTheirRanges : Obligations.JobAddressesLieInTheirRanges := by
  unfold Obligations.JobAddressesLieInTheirRanges
  intro j h
  refine ⟨fun x y c hx hy hc => ?_, fun col row c hcol hrow hc => ?_, rfl, rfl, rfl, rfl, h.ranges⟩
  · obtain ⟨first, last⟩ := srcAddr_in_range j hx hy hc
    exact ⟨first, last, fun x' y' c' hx' _ hc' => rasterAddr_injective h.strides.1 hx hc hx' hc'⟩
  · obtain ⟨first, last⟩ := dstAddr_in_range j hcol hrow hc
    exact ⟨first, last, fun col' row' c' hcol' _ hc' => h.dstAddr_injective hcol hc hcol' hc'⟩

/-- Settles O39: the tiles partition the image's pixels, and both rasters keep distinct samples apart. -/
theorem jobAccessesEachByteOnce : Obligations.JobAccessesEachByteOnce := by
  unfold Obligations.JobAccessesEachByteOnce
  intro j h
  rw [allReads_eq_rasterBytes]
  refine ⟨h.allReads_nodup, fun a => ?_, h.tileReads_pairwise_lt, fun acc => ?_, h.allDst_nodup, mem_allDst j⟩
  · simp only [mem_rasterBytes, h.mem_scan, srcAddr_eq_rasterAddr, and_assoc]
  · simp only [tileWrites_addrs]
    exact ⟨h.allDst_nodup, mem_allDst j, fun col row => rasterCell_pairwise_lt _ _ col row⟩

/-- Settles O48: canonical lists that read alike begin with the same entry, and their tails read alike. -/
theorem canonicalMemoriesAreEqual : Obligations.CanonicalMemoriesAreEqual := by
  unfold Obligations.CanonicalMemoriesAreEqual
  intro m m' hm hm' same
  exact wfAbove_ext hm hm' same

/-- Settles O56: the mark of `irqSeen` reaches past every byte that the job has written, so its record has no early value
for one of them. -/
theorem irqOrdersTheJobsWrites : Obligations.IrqOrdersTheJobsWrites := by
  unfold Obligations.IrqOrdersTheJobsWrites
  intro s t inv hr h hp ht hi hirq
  obtain ⟨r, older, hrs, job, -, -⟩ := hr hp
  obtain ⟨seen, progress, all⟩ := step_raises_irq inv h hp ht hi hirq
  obtain ⟨-, -, running⟩ := (inv_iff s).1 inv
  obtain ⟨-, -, startable, -, -, count⟩ := running hp
  rw [hrs] at seen
  refine ⟨by rw [seen, hrs]; rfl, fun col row c addr hcol hrow hc haddr written => hostRead_of_no_early ?_⟩
  have sample : r.job.dstSample addr.toNat = some (col, row, c) := by
    rw [job, haddr]
    exact startable.dstSample_dstAddr hcol hrow hc
  have visible : r.job.dstIndex (col, row, c) < bytesWritten s.job s.cursor t.regs := by
    rw [job]
    refine dstIndex_lt_bytesWritten hcol hrow hc ?_
    rcases written with hd | hcount | ⟨hcode, rfl, rfl, haddr'⟩
    · exact .inl (.inl (all hd).ge)
    · exact .inl (.inr hcount)
    · exact .inr ⟨hcode, count ▸ progress, rfl, rfl, haddr ▸ haddr'⟩
  rw [seen]
  exact (earlyRead_newest t.mem (r := { r with visible := bytesWritten s.job s.cursor t.regs }) sample older t.draws).trans
    (if_pos visible)

/-- Settles O57: a move of the block that ends no job leaves the running job's record, START puts one in front, and the end of
a job and the accesses of agents at most mark it. -/
theorem stepKeepsTheJobsRecord : Obligations.StepKeepsTheJobsRecord := by
  unfold Obligations.StepKeepsTheJobsRecord
  refine ⟨fun h => (by cases h), fun s inv hr => ?_, fun s t h hs ht => ?_, fun s t r older inv h hp hrs => ?_⟩
  · obtain ⟨t, h, -⟩ := stepKeepsTheInvariant s inv
    refine ⟨t, h, ?_⟩
    rcases step_cases h with ⟨u, next, move, rfl⟩ | ⟨addr, value, rfl⟩ | ⟨addr, rfl⟩
    · exact move.settle_recordsJob inv hr
    · exact hostWrite_recordsJob addr value hr
    · exact hostRead_recordsJob addr hr
  · obtain ⟨u, move, hu, -, job, seen⟩ := step_changes_phase h (by simp [hs, ht])
    rw [ht] at hu
    obtain ⟨mem, kept⟩ := move.begins hs hu
    rw [settle_begins (before := s.popped) hs hu] at seen
    exact ⟨⟨u.job, u.mem, false, 0⟩, seen.trans (congrArg _ kept), job.symm, mem, rfl, rfl⟩
  · show ∃ r', t.unsynced = r' :: older ∧ r.Continues r'
    rcases step_cases h with ⟨u, next, move, rfl⟩ | ⟨addr, value, rfl⟩ | ⟨addr, rfl⟩
    · exact settle_keeps_record hp ((move.unsynced inv hp).trans hrs)
    · exact hostWrite_keeps_record addr value hrs
    · obtain ⟨-, -, -, -, -, -, seen⟩ := hostRead_frame addr s.popped
      exact ⟨r, seen.trans hrs, .refl r⟩

/-- Settles O6: a step is the settled outcome of the decoded instruction, and settling notes nothing where the phase stays. -/
theorem stepRunsPendingTransaction : Obligations.StepRunsPendingTransaction := by
  unfold Obligations.StepRunsPendingTransaction
  rintro s t i key data rest hin rfl - h
  have answer : step s = .next (settle { s with inputs := rest } t) := by
    rw [step_transaction hin, popped_of_inputs hin, h]
    rfl
  refine ⟨answer, fun hp => ?_⟩
  rw [answer, settle_same_phase { s with inputs := rest } t hp]

/-- Settles O49: a list of one access is done or refused. -/
theorem masterPortAccessesOneByte : Obligations.MasterPortAccessesOneByte := by
  unfold Obligations.MasterPortAccessesOneByte
  intro m gaps a v c acc hm ha
  refine ⟨fun h => ?_, fun h => ?_, fun h => ⟨Memory.write m a v, ?_, wf_write m hm a v, read_write m hm a v ha⟩,
    fun h => ?_⟩
  · simp [readTile, h]
  · simp [readTile, h]
  · simp [writeTile, h]
  · simp [writeTile, h]

/-- Settles O52: the newest record decides on its bytes, and a byte of no record is read from memory; the running job's source
bytes are none of its own destination's. -/
theorem statusReadOrdersTheJobsWrites : Obligations.StatusReadOrdersTheJobsWrites := by
  unfold Obligations.StatusReadOrdersTheJobsWrites
  refine ⟨fun s addr hended => ?_, fun s addr r rest d hrs hraced hd => ?_, fun s addr => hostRead_of_not_written,
    fun s addr x y c inv hr hp older hx hy hc haddr => ?_⟩
  · obtain ⟨t, h, seen, mem⟩ := exec_rdStatus_of_ended hended
    exact ⟨t, h, mem ▸ hostRead_of_not_written (by simp [seen])⟩
  · obtain ⟨-, -, -, hda⟩ := dstSample_some hd
    have early := earlyRead_newest s.mem hd rest s.draws
    rw [← hrs] at early
    rcases hostRead_cases addr s with ⟨-, e⟩ | ⟨v, hv, e⟩
    · exact .inr (.inr (congrArg State.hostByte e))
    · rw [early] at hv
      split_ifs at hv
      obtain rfl := Option.some.inj hv
      rw [e, ← hda]
      exact earlyByte_cases s.mem hraced d s.draws
  · obtain ⟨r, rest, hrs, job, -, -⟩ := hr hp
    obtain ⟨-, -, running⟩ := (inv_iff s).1 inv
    obtain ⟨-, -, startable, -⟩ := running hp
    refine hostRead_of_not_written fun r' hr' => ?_
    rw [hrs] at hr' older
    rcases List.mem_cons.1 hr' with rfl | hr'
    · rw [job, haddr]
      exact startable.srcAddr_not_written hx hy hc
    · exact older r' hr'

/-- Settles O53: the write is in memory, and no unseen job stands between it and the read. -/
theorem hostReadsWhatWasWritten : Obligations.HostReadsWhatWasWritten := by
  unfold Obligations.HostReadsWhatWasWritten
  intro s addr value rest hm hp hseen hin
  have written := hostWrite_idle addr value (s := s.popped) hp
  have pending : (hostWrite addr value s.popped).inputs = .hostRead addr :: rest := by
    rw [written]
    simp [State.popped, hin]
  refine ⟨_, _, step_hostWrite hin, step_hostRead pending, ?_⟩
  obtain ⟨mem, regs, -, -, inputs, -⟩ := hostRead_frame addr (hostWrite addr value s.popped).popped
  have byte : ∀ a, Memory.read (Memory.write s.mem addr.toNat value) a = if a = addr.toNat then value else Memory.read s.mem a :=
    read_write s.mem hm addr.toNat value addr.isLt
  refine ⟨?_, ?_, ?_, fun a ha => ?_⟩
  · rw [hostRead_of_not_written (by rw [written]; simp [State.popped, hseen]), written]
    exact (byte _).trans (if_pos rfl)
  · rw [regs, written]; rfl
  · rw [inputs]
    exact congrArg List.tail pending
  · rw [mem, written]
    exact (byte a).trans (if_neg ha)

end Sys2Proof.Machine
end

section
/-! PROOFS. The forms of a transaction key and of a command word (30_encoding.md R60 to R64): what is decoded from each. -/

namespace Sys2Proof.Machine

open Sys2Proof

/-! ## The fields of a key as numbers -/

theorem alignedOff_iff_toNat (off : BitVec 8) : alignedOff off = true ↔ off.toNat % 4 = 0 := by
  simp only [alignedOff, beq_iff_eq, ← BitVec.toNat_inj, BitVec.extractLsb'_toNat, BitVec.toNat_ofNat,
    Nat.shiftRight_zero]

theorem toNat_makeKey (size : AccSize) (wr : Bool) (off : BitVec 8) :
    (makeKey size wr off).toNat = 512 * size.bits.toNat + 256 * wr.toNat + off.toNat := by
  unfold makeKey
  rw [toNat_append_eq, toNat_append_eq, BitVec.toNat_ofBool]
  omega

theorem toNat_readKey (off : BitVec 8) : (readKey off).toNat = 0x400 + off.toNat := toNat_makeKey .word false off

theorem toNat_writeKey (off : BitVec 8) : (writeKey off).toNat = 0x500 + off.toNat := toNat_makeKey .word true off

theorem AccSize.toNat_bits_eq_two_iff (size : AccSize) : size.bits.toNat = 2 ↔ size = .word := by
  cases size <;> decide

theorem legalAccess_eq_true_iff (size : AccSize) (off : BitVec 8) :
    legalAccess size off = true ↔ size = .word ∧ alignedOff off = true := by
  simp [legalAccess]

theorem legalAccess_eq_false_iff (size : AccSize) (off : BitVec 8) :
    legalAccess size off = false ↔ ¬ (size = .word ∧ alignedOff off = true) := by
  rw [← legalAccess_eq_true_iff, Bool.not_eq_true]

/-- A key is an aligned word's where its number says so (30_encoding.md R60). -/
theorem legalAccess_iff_toNat (key : Key) :
    legalAccess (keySize key) (keyOff key) = true ↔ key.toNat / 512 = 2 ∧ key.toNat % 4 = 0 := by
  have number := toNat_makeKey (keySize key) (keyWr key) (keyOff key)
  rw [makeKey_fields] at number
  have wrBit := (keyWr key).toNat_le
  have offBits := (keyOff key).isLt
  rw [legalAccess_eq_true_iff, alignedOff_iff_toNat, ← AccSize.toNat_bits_eq_two_iff, number]
  omega

/-! ## What a key decodes to -/

theorem decode_readKey {off : BitVec 8} (aligned : alignedOff off = true) (data : Word) :
    decode (.tx (readKey off) data) = readRow off := by
  simp [decode, decodeKey, readKey, aligned]

theorem decode_writeKey {off : BitVec 8} (aligned : alignedOff off = true) (data : Word) :
    decode (.tx (writeKey off) data) = writeRow off data := by
  simp [decode, decodeKey, writeKey, aligned]

theorem decode_illegalKey {size : AccSize} {off : BitVec 8} (illegal : legalAccess size off = false) (wr : Bool)
    (data : Word) : decode (.tx (makeKey size wr off) data) = .accIllegal size wr off := by
  have dropped := (legalAccess_eq_false_iff size off).1 illegal
  simp [decode, decodeKey, dropped]

theorem RegName.alignedOff_off (reg : RegName) : alignedOff reg.off = true := by
  cases reg <;> rfl

theorem RegName.readRow_off (reg : RegName) : readRow reg.off = reg.specRow.2.1 := by
  cases reg <;> rfl

theorem RegName.writeRow_off (reg : RegName) (data : Word) : writeRow reg.off data = reg.specRow.2.2 data := by
  cases reg <;> rfl

theorem RegName.toNat_off (reg : RegName) : reg.off.toNat = reg.specRow.1 := by
  cases reg <;> rfl

theorem RegName.decode_read (reg : RegName) (data : Word) : decode (.tx (readKey reg.off) data) = reg.specRow.2.1 := by
  rw [decode_readKey reg.alignedOff_off, reg.readRow_off]

theorem RegName.decode_write (reg : RegName) (data : Word) :
    decode (.tx (writeKey reg.off) data) = reg.specRow.2.2 data := by
  rw [decode_writeKey reg.alignedOff_off, reg.writeRow_off]

theorem decode_reservedRead {off : BitVec 8} (reserved : reservedOff off = true) (data : Word) :
    decode (.tx (readKey off) data) = .rdRsvd off := by
  obtain ⟨aligned, row⟩ := readRow_reserved off reserved
  rw [decode_readKey aligned, row]

/-! ## The forms of a key -/

/-- An aligned offset is a named register's or a reserved one (10_state.md R16, R32). -/
theorem named_or_reserved (off : BitVec 8) (aligned : alignedOff off = true) :
    (∃ p ∈ regNames, p.2.off = off) ∨ reservedOff off = true := by
  revert off
  decide +kernel

/-- What a key asks for: an access of a named register, an access of a reserved offset, or what no legal access is
(30_encoding.md R63). -/
inductive KeyForm : Key → Prop where
  | read (reg : RegName) : KeyForm (readKey reg.off)
  | write (reg : RegName) : KeyForm (writeKey reg.off)
  | reservedRead (off : BitVec 8) (reserved : reservedOff off = true) : KeyForm (readKey off)
  | reservedWrite (off : BitVec 8) (reserved : reservedOff off = true) : KeyForm (writeKey off)
  | illegal (size : AccSize) (wr : Bool) (off : BitVec 8) (illegal : legalAccess size off = false) :
    KeyForm (makeKey size wr off)

theorem keyForm_makeKey (size : AccSize) (wr : Bool) (off : BitVec 8) : KeyForm (makeKey size wr off) := by
  cases legal : legalAccess size off with
  | false => exact .illegal size wr off legal
  | true =>
    obtain ⟨rfl, aligned⟩ := (legalAccess_eq_true_iff size off).1 legal
    rcases named_or_reserved off aligned with ⟨⟨_, reg⟩, -, rfl⟩ | reserved
    · cases wr with
      | false => exact .read reg
      | true => exact .write reg
    · cases wr with
      | false => exact .reservedRead off reserved
      | true => exact .reservedWrite off reserved

/-- The forms cover every key. -/
theorem keyForm (key : Key) : KeyForm key := makeKey_fields key ▸ keyForm_makeKey _ _ _

/-! ## The forms of a command word -/

theorem reservedCommand_iff_toNat (word : Word) : reservedCommand word = true ↔ 4 ≤ word.toNat := by
  have fields : word.toNat = (commandMbz word).toNat * 2 ^ 4 + (commandOp word).toNat := by
    rw [← toNat_append_eq, commandMbz_append_commandOp]
  have mbz : commandMbz word = 0#28 ↔ (commandMbz word).toNat = 0 := BitVec.toNat_inj.symm
  show (commandMbz word != 0#28 || decide (4 ≤ (commandOp word).toNat)) = true ↔ _
  simp only [Bool.or_eq_true, bne_iff_ne, decide_eq_true_eq, Ne, mbz]
  omega

/-- What a command word asks for: one of the four commands, or a reserved one (30_encoding.md R64). -/
inductive CommandForm : Word → Prop where
  | nop : CommandForm 0#32
  | start : CommandForm 1#32
  | abort : CommandForm 2#32
  | softReset : CommandForm 3#32
  | reserved (word : Word) (reserved : reservedCommand word = true) : CommandForm word

/-- The forms cover every command word. -/
theorem commandForm (word : Word) : CommandForm word := by
  cases reserved : reservedCommand word with
  | true => exact .reserved word reserved
  | false =>
    have small : ¬ 4 ≤ word.toNat := by
      rw [← reservedCommand_iff_toNat, reserved]
      exact Bool.false_ne_true
    have named : word = 0#32 ∨ word = 1#32 ∨ word = 2#32 ∨ word = 3#32 := by bv_omega
    rcases named with rfl | rfl | rfl | rfl
    · exact .nop
    · exact .start
    · exact .abort
    · exact .softReset

end Sys2Proof.Machine
end

section
/-! PROOFS. The rows of the opcode table as masks and values (30_encoding.md R63, R64): no two cover one word, and the
decoder's row covers it. -/

namespace Sys2Proof.Machine

open Sys2Proof

/-! ## Rows that cover no word in common -/

/-- Two rows whose values differ on the bits that both masks keep. -/
def apartRows {width : Nat} (row row' : OpcodeRow width) : Bool := row.value &&& row'.mask != row'.value &&& row.mask

theorem not_covers_of_apartRows {width : Nat} {row row' : OpcodeRow width} (apart : apartRows row row' = true)
    {v : BitVec width} (h : row.covers v = true) : row'.covers v = false := by
  by_contra h'
  simp only [OpcodeRow.covers, Bool.not_eq_false, beq_iff_eq] at h h'
  simp only [apartRows, bne_iff_ne] at apart
  apply apart
  rw [← h, ← h', BitVec.and_assoc, BitVec.and_assoc, BitVec.and_comm row.mask]

theorem apartRows_comm {width : Nat} (row row' : OpcodeRow width) : apartRows row row' = apartRows row' row := bne_comm

/-- In a table of rows that are pairwise apart, a row that covers a word is the only one. -/
theorem filter_covers_eq_singleton {width : Nat} {rows : List (OpcodeRow width)}
    (apart : rows.Pairwise fun row row' => apartRows row row' = true) {row : OpcodeRow width} (mem : row ∈ rows)
    {v : BitVec width} (h : row.covers v = true) : (rows.filter fun r => r.covers v) = [row] := by
  induction rows with
  | nil => cases mem
  | cons first rest ih =>
    obtain ⟨first_apart, rest_apart⟩ := List.pairwise_cons.1 apart
    rcases List.mem_cons.1 mem with rfl | mem
    · have alone : (rest.filter fun r => r.covers v) = [] :=
        List.filter_eq_nil_iff.2 fun other hother => by simp [not_covers_of_apartRows (first_apart other hother) h]
      simp [h, alone]
    · have skipped : first.covers v = false :=
        not_covers_of_apartRows ((apartRows_comm row first).trans (first_apart row mem)) h
      simp [skipped, ih rest_apart mem]

theorem txRows_apart : txRows.Pairwise fun row row' => apartRows row row' = true := by decide +kernel

theorem cmdRows_apart : cmdRows.Pairwise fun row row' => apartRows row row' = true := by decide +kernel

/-! ## The row of a key -/

/-- The table has a row of this mnemonic that covers the key. -/
def KeyInTable (key : Key) (mnemonic : String) : Prop := ∃ row ∈ txRows, row.covers key = true ∧ row.mnemonic = mnemonic

theorem RegName.read_in_table (reg : RegName) : KeyInTable (readKey reg.off) reg.specRow.2.1.mnemonic := by
  unfold KeyInTable
  cases reg <;> decide

theorem RegName.write_in_table (reg : RegName) (data : Word) :
    KeyInTable (writeKey reg.off) (reg.specRow.2.2 data).mnemonic := by
  have any_data : (reg.specRow.2.2 data).mnemonic = (reg.specRow.2.2 0#32).mnemonic := by cases reg <;> rfl
  rw [any_data]
  unfold KeyInTable
  cases reg <;> decide

theorem reserved_in_table (off : BitVec 8) (reserved : reservedOff off = true) :
    KeyInTable (readKey off) "RD_RSVD" ∧ KeyInTable (writeKey off) "WR_RSVD" := by
  unfold KeyInTable
  revert off
  decide +kernel

/-- The row of the illegal accesses of a SIZE whose OFF has the value `off` under `mask` (30_encoding.md R63). -/
def illegalRow (size : AccSize) (off mask : BitVec 8) : OpcodeRow 11 :=
  ⟨"ACC_ILLEGAL", size.bits ++ 0#1 ++ off, 3#2 ++ 0#1 ++ mask⟩

theorem illegalRow_covers (size : AccSize) (wr : Bool) (off mask : BitVec 8) :
    (illegalRow size (off &&& mask) mask).covers (makeKey size wr off) = true := by
  have sizeBits : size.bits &&& 3#2 = size.bits := BitVec.and_allOnes
  rw [OpcodeRow.covers, beq_iff_eq]
  show (size.bits ++ BitVec.ofBool wr ++ off) &&& (3#2 ++ 0#1 ++ mask) = size.bits ++ 0#1 ++ (off &&& mask)
  rw [BitVec.and_append, BitVec.and_append, sizeBits, BitVec.and_zero]

/-- A misaligned offset is odd, or it ends in the bits 10 (30_encoding.md R63). -/
theorem misaligned_cases (off : BitVec 8) (misaligned : alignedOff off = false) :
    off &&& 1#8 = 1#8 ∨ off &&& 3#8 = 2#8 := by
  revert off
  decide +kernel

theorem illegal_in_table (size : AccSize) (wr : Bool) (off : BitVec 8) (illegal : legalAccess size off = false) :
    KeyInTable (makeKey size wr off) "ACC_ILLEGAL" := by
  have table {value mask : BitVec 8} (bits : off &&& mask = value) (mem : illegalRow size value mask ∈ txRows) :
      KeyInTable (makeKey size wr off) "ACC_ILLEGAL" := by
    subst bits
    exact ⟨_, mem, illegalRow_covers size wr off mask, rfl⟩
  have anyOff : off &&& 0#8 = 0#8 := BitVec.and_zero
  cases size with
  | byte => exact table anyOff (by decide)
  | half => exact table anyOff (by decide)
  | reserved => exact table anyOff (by decide)
  | word =>
    rcases misaligned_cases off illegal with odd | even
    · exact table odd (by decide)
    · exact table even (by decide)

theorem key_in_table (key : Key) (data : Word) : KeyInTable key (decode (.tx key data)).mnemonic := by
  cases keyForm key with
  | read reg => rw [reg.decode_read]; exact reg.read_in_table
  | write reg => rw [reg.decode_write]; exact reg.write_in_table data
  | reservedRead off reserved => rw [decode_reservedRead reserved]; exact (reserved_in_table off reserved).1
  | reservedWrite off reserved =>
    rw [decode_writeKey_reserved off data reserved]; exact (reserved_in_table off reserved).2
  | illegal size wr off illegal => rw [decode_illegalKey illegal]; exact illegal_in_table size wr off illegal

/-! ## The row of a command word -/

/-- The row of the words whose highest set bit is `k` (30_encoding.md R64). -/
def highestBitRow (k : Nat) : OpcodeRow 32 := ⟨"CMD_RESERVED", 1#32 <<< k, 0xFFFFFFFF#32 <<< k⟩

theorem highestBitRow_mem {k : Nat} (low : 2 ≤ k) (high : k < 32) : highestBitRow k ∈ cmdRows := by
  rcases (by omega : k = 2 ∨ k = 3 ∨ 4 ≤ k) with rfl | rfl | upper
  · decide
  · decide
  · exact List.mem_append_right _ (List.mem_map.2 ⟨k, List.mem_range'_1.2 ⟨upper, high⟩, rfl⟩)

theorem highestBitRow_covers {word : Word} {k : Nat} (low : 2 ^ k ≤ word.toNat) (high : word.toNat < 2 ^ (k + 1)) :
    (highestBitRow k).covers word = true := by
  have bit (i : Nat) (hi : k ≤ i) : word.getLsbD i = decide (i = k) := by
    rcases hi.eq_or_lt with rfl | above
    · have one : word.toNat / 2 ^ k = 1 := Nat.div_eq_of_lt_le (by omega) (by omega)
      simp [BitVec.getLsbD, Nat.testBit_eq_decide_div_mod_eq, one]
    · have clear : word.toNat < 2 ^ i := high.trans_le (Nat.pow_le_pow_right (by omega) above)
      simp [BitVec.getLsbD, Nat.testBit_lt_two_pow clear, above.ne']
  have mask : 0xFFFFFFFF#32 = BitVec.allOnes 32 := rfl
  rw [OpcodeRow.covers, beq_iff_eq]
  apply BitVec.eq_of_getLsbD_eq
  intro i hi
  simp only [highestBitRow, mask, BitVec.getLsbD_and, BitVec.getLsbD_shiftLeft, BitVec.getLsbD_allOnes,
    BitVec.getLsbD_one]
  rcases lt_or_ge i k with below | above
  · simp [below]
  · rw [bit i above]
    grind

theorem reserved_word_in_table {word : Word} (reserved : reservedCommand word = true) :
    ∃ row ∈ cmdRows, row.covers word = true ∧ row.mnemonic = "CMD_RESERVED" := by
  have four := (reservedCommand_iff_toNat word).1 reserved
  have pos : word.toNat ≠ 0 := by omega
  exact ⟨highestBitRow word.toNat.log2,
    highestBitRow_mem ((Nat.le_log2 pos).2 four) ((Nat.log2_lt pos).2 word.isLt),
    highestBitRow_covers (Nat.log2_self_le pos) Nat.lt_log2_self, rfl⟩

theorem command_in_table (word : Word) :
    ∃ row ∈ cmdRows, row.covers word = true ∧ row.mnemonic = (decode (.cmd word)).mnemonic := by
  cases commandForm word with
  | nop | start | abort | softReset => decide
  | reserved word reserved =>
    rw [decode_reserved_command word reserved]
    exact reserved_word_in_table reserved

end Sys2Proof.Machine
end

section
/-! PROOFS. What is decoded has an encoding, how a transaction answers, and the lines of a script (30_encoding.md R60, R61,
R67, R68). -/

namespace Sys2Proof.Machine

open Sys2Proof

/-! ## Encoding what was decoded -/

theorem RegName.wf_rows (reg : RegName) (data : Word) :
    reg.specRow.2.1.wf = true ∧ (reg.specRow.2.2 data).wf = true := by
  cases reg <;> exact ⟨rfl, rfl⟩

theorem RegName.encode_read (reg : RegName) : encode reg.specRow.2.1 = .tx (readKey reg.off) 0#32 := by
  cases reg <;> rfl

theorem RegName.encode_write (reg : RegName) (data : Word) :
    encode (reg.specRow.2.2 data) = .tx (writeKey reg.off) data := by
  cases reg <;> rfl

theorem wf_decode_key (key : Key) (data : Word) : (decode (.tx key data)).wf = true := by
  cases keyForm key with
  | read reg => rw [reg.decode_read]; exact (reg.wf_rows data).1
  | write reg => rw [reg.decode_write]; exact (reg.wf_rows data).2
  | reservedRead off reserved => rw [decode_reservedRead reserved]; exact reserved
  | reservedWrite off reserved => rw [decode_writeKey_reserved off data reserved]; exact reserved
  | illegal size wr off illegal => rw [decode_illegalKey illegal, Instr.wf, illegal]; rfl

theorem wf_decode_command (word : Word) : (decode (.cmd word)).wf = true := by
  cases commandForm word with
  | nop | start | abort | softReset => rfl
  | reserved word reserved => rw [decode_reserved_command word reserved]; exact reserved

theorem wf_decode : ∀ e : Encoding, (decode e).wf = true
  | .tx key data => wf_decode_key key data
  | .cmd word => wf_decode_command word

/-- The DATA that the decoder keeps of a transaction: a legal write's (30_encoding.md R59, log 17). -/
def keptData (key : Key) (data : Word) : Word :=
  if keySize key = .word ∧ alignedOff (keyOff key) = true ∧ keyWr key = true then data else 0#32

theorem keptData_readKey (off : BitVec 8) (data : Word) : keptData (readKey off) data = 0#32 := by
  simp [keptData, readKey]

theorem keptData_writeKey {off : BitVec 8} (aligned : alignedOff off = true) (data : Word) :
    keptData (writeKey off) data = data := by
  simp [keptData, writeKey, aligned]

theorem keptData_illegalKey {size : AccSize} {off : BitVec 8} (illegal : legalAccess size off = false) (wr : Bool)
    (data : Word) : keptData (makeKey size wr off) data = 0#32 := by
  have dropped := (legalAccess_eq_false_iff size off).1 illegal
  refine if_neg fun ⟨word, aligned, _⟩ => dropped ?_
  rw [keySize_makeKey] at word
  rw [keyOff_makeKey] at aligned
  exact ⟨word, aligned⟩

theorem encode_decode_key (key : Key) (data : Word) :
    encode (decode (.tx key data)) = .tx key (keptData key data) := by
  cases keyForm key with
  | read reg => rw [reg.decode_read, reg.encode_read, keptData_readKey]
  | write reg => rw [reg.decode_write, reg.encode_write, keptData_writeKey reg.alignedOff_off]
  | reservedRead off reserved => rw [decode_reservedRead reserved, keptData_readKey]; rfl
  | reservedWrite off reserved =>
    rw [decode_writeKey_reserved off data reserved, keptData_writeKey (readRow_reserved off reserved).1]
    rfl
  | illegal size wr off illegal => rw [decode_illegalKey illegal, keptData_illegalKey illegal]; rfl

theorem encode_decode_command (word : Word) : encode (decode (.cmd word)) = .cmd word := by
  cases commandForm word with
  | nop | start | abort | softReset => rfl
  | reserved word reserved => rw [decode_reserved_command word reserved]; rfl

/-! ## How a transaction answers -/

/-- The decoder answers ACC_ILLEGAL exactly where the key is no aligned word's (30_encoding.md R63): what it answers is
well-formed and has the same key. -/
theorem mnemonic_decode_eq_accIllegal_iff (key : Key) (data : Word) :
    (decode (.tx key data)).mnemonic = "ACC_ILLEGAL" ↔ ¬ (key.toNat / 512 = 2 ∧ key.toNat % 4 = 0) := by
  rw [← legalAccess_iff_toNat, Bool.not_eq_true, mnemonic_eq_accIllegal_iff]
  constructor
  · rintro ⟨size, wr, off, row⟩
    have wf := wf_decode_key key data
    have back := encode_decode_key key data
    rw [row] at wf back
    obtain ⟨rfl, -⟩ := Encoding.tx.inj back
    simpa [Instr.wf] using wf
  · intro illegal
    have row := decode_illegalKey illegal (keyWr key) data
    rw [makeKey_fields] at row
    exact ⟨_, _, _, row⟩

theorem Resp.eq_okay_iff (r : Resp) : r = .okay ↔ ¬ r = .slverr := by
  cases r <;> simp

/-- A command word does the same as an instruction and as the DATA of a CMD write (40_register_access.md R75). -/
theorem exec_decode_transaction (e : Encoding) (s : State) :
    exec (decode (.tx e.transaction.1 e.transaction.2)) s = exec (decode e) s := by
  cases e with
  | tx key data => rfl
  | cmd word =>
    have asData : performedCommand (.wrCmd word) = some (decodeCommand word) := rfl
    have asInstr : performedCommand (decodeCommand word).toInstr = some (decodeCommand word) :=
      (performedCommand_eq_some_iff _ _).2 (.inl rfl)
    have transaction : decode (.tx (Encoding.cmd word).transaction.1 (Encoding.cmd word).transaction.2) = .wrCmd word :=
      RegName.decode_write .cmd word
    rw [transaction, exec_of_performedCommand asData s]
    exact (exec_of_performedCommand asInstr s).symm

theorem step_pushTransaction (e : Encoding) (s : State) :
    step (pushTransaction e s) = settleOutcome s (exec (decode e) s) := by
  rw [← exec_decode_transaction]
  rfl

theorem decodeTableWord_eq_some {nbits w : Nat} {i : Instr} (h : decodeTableWord nbits w = some i) :
    ∃ e, encodingOfBits nbits w = .ok e ∧ decode e = i := by
  unfold decodeTableWord at h
  cases bits : encodingOfBits nbits w with
  | ok e => exact ⟨e, rfl, by simpa [bits] using h⟩
  | error => simp [bits] at h

/-! ## Lines of a script -/

/-- A word line is legal where its offset is a multiple of 4 (30_encoding.md R60, R67). -/
theorem decode_wordKey (wr : Bool) (off : BitVec 8) (data : Word) :
    decode (.tx (makeKey .word wr off) data) =
      if off.toNat % 4 = 0 then (if wr then writeRow off data else readRow off) else .accIllegal .word wr off := by
  simp only [decode, decodeKey, keySize_makeKey, keyWr_makeKey, keyOff_makeKey, alignedOff_iff_toNat, true_and]

/-- A halfword or a byte line is never legal (30_encoding.md R67). -/
theorem decode_narrowKey {size : AccSize} (narrow : size = .byte ∨ size = .half) (wr : Bool) (off : BitVec 8)
    (data : Word) : decode (.tx (makeKey size wr off) data) = .accIllegal size wr off := by
  have illegal : legalAccess size off = false := by rcases narrow with rfl | rfl <;> rfl
  exact decode_illegalKey illegal wr data

theorem toNat_narrowKey {size : AccSize} (narrow : size = .byte ∨ size = .half) (off : BitVec 8) :
    (makeKey size false off).toNat = (if size = .half then 0x200 else 0x000) + off.toNat ∧
      (makeKey size true off).toNat = (if size = .half then 0x300 else 0x100) + off.toNat := by
  rcases narrow with rfl | rfl <;> exact ⟨toNat_makeKey _ false off, toNat_makeKey _ true off⟩

theorem Phase.isBusy_eq_true_iff (p : Phase) : p.isBusy = true ↔ p = .busy := by
  cases p <;> simp [Phase.isBusy]

/-- One step of `wait`: a read of STATUS, after which the loop goes on while BUSY (30_encoding.md R68). -/
theorem step_wait_polls {s : State} {rest : List Action} (h : s.inputs = .wait :: rest) :
    ∃ t, step s = .next t ∧ t.response = ⟨.okay, statusWord s.phase s.regs⟩ ∧ t.regs = s.regs ∧
      t.inputs = if s.phase = .busy then .engine :: .wait :: rest else rest := by
  obtain ⟨u, poll, response, regs, inputs⟩ : ∃ u, exec .rdStatus s.popped = .next u ∧
      u.response = ⟨.okay, statusWord s.phase s.regs⟩ ∧ u.regs = s.regs ∧ u.inputs = rest :=
    ⟨_, rfl, rfl, rfl, by simp [State.popped, h]⟩
  have polled : u.response.rdata.getLsbD 0 = true ↔ s.phase = .busy := by
    rw [response, (statusWord_bits s.phase s.regs).1, Phase.isBusy_eq_true_iff]
  refine ⟨pollAgain u, by rw [step_wait h, poll]; rfl, ?_⟩
  rcases pollAgain_cases u with ⟨bit, e⟩ | ⟨bit, e⟩
  · exact ⟨by rw [e, response], by rw [e, regs], by rw [e, if_pos (polled.1 bit), inputs]⟩
  · have idle : s.phase ≠ .busy := fun busy => Bool.false_ne_true (bit.symm.trans (polled.2 busy))
    exact ⟨by rw [e, response], by rw [e, regs], by rw [e, if_neg idle, inputs]⟩

end Sys2Proof.Machine
end

section
/-! PROOFS. The statements about encodings and scripts (30_encoding.md). -/

namespace Sys2Proof.Machine

open Sys2Proof

/-- Settles O1: a reserved offset, an illegal access and a reserved command word come back by the lemma on their form; every
other instruction has a fixed key or command word, and its DATA is taken over as it is. -/
theorem encodedInstructionsDecodeBack : Obligations.EncodedInstructionsDecodeBack := by
  unfold Obligations.EncodedInstructionsDecodeBack
  intro i hwf
  cases i with
  | rdRsvd off => exact decode_readKey_reserved off hwf
  | wrRsvd off data => exact decode_writeKey_reserved off data hwf
  | accIllegal size wr off => exact decode_makeKey_illegal size wr off hwf
  | cmdReserved word => exact decode_reserved_command word hwf
  | _ => rfl

/-- Settles O2: a row of the decoder's mnemonic covers the key, and rows that are pairwise apart leave no other. -/
theorem everyKeyMatchesExactlyItsRow : Obligations.EveryKeyMatchesExactlyItsRow := by
  unfold Obligations.EveryKeyMatchesExactlyItsRow
  intro key data
  obtain ⟨row, mem, covers, mnemonic⟩ := key_in_table key data
  rw [filter_covers_eq_singleton txRows_apart mem covers, ← mnemonic]
  rfl

/-- Settles O3: the rows are pairwise apart, and the one that covers a reserved word is that of its highest set bit. -/
theorem everyCommandWordMatchesExactlyItsRow : Obligations.EveryCommandWordMatchesExactlyItsRow := by
  unfold Obligations.EveryCommandWordMatchesExactlyItsRow
  intro word
  obtain ⟨row, mem, covers, mnemonic⟩ := command_in_table word
  rw [filter_covers_eq_singleton cmdRows_apart mem covers, ← mnemonic]
  rfl

/-- Settles O4, by the form of the key and of the command word: each form's instruction has the form's encoding. -/
theorem decodingKeepsKeysCommandsAndWrittenData : Obligations.DecodingKeepsKeysCommandsAndWrittenData := by
  unfold Obligations.DecodingKeepsKeysCommandsAndWrittenData
  exact ⟨wf_decode, encode_decode_key, encode_decode_command⟩

/-- Settles O7: the placed transaction runs, and a command word does as DATA what it does as an instruction. -/
theorem placedTableWordRuns : Obligations.PlacedTableWordRuns := by
  unfold Obligations.PlacedTableWordRuns
  intro s nbits w i h
  obtain ⟨e, bits, rfl⟩ := decodeTableWord_eq_some h
  have placed : s.withFetchWord nbits w = pushTransaction e s := by
    simp [State.withFetchWord, placeTableWord, bits]
  rw [placed, step_pushTransaction]

/-- Settles O19: SLVERR answers ACC_ILLEGAL alone, and that is what the decoder gives for exactly the illegal keys. -/
theorem illegalTransactionsAnswerSlverr : Obligations.IllegalTransactionsAnswerSlverr := by
  unfold Obligations.IllegalTransactionsAnswerSlverr
  refine ⟨fun s key data => ?_, fun s size wr off _ => rfl⟩
  obtain ⟨t, answer, -, -, slverr⟩ := transactionsNeverTouchMemory (decode (.tx key data)) s
  rw [mnemonic_decode_eq_accIllegal_iff] at slverr
  refine ⟨t, answer, ?_, fun illegal => ?_⟩
  · rw [Resp.eq_okay_iff, slverr, not_not]
  · have mnemonic := (mnemonic_decode_eq_accIllegal_iff key data).2 illegal
    obtain ⟨size, wr, off, row⟩ := (mnemonic_eq_accIllegal_iff _).1 mnemonic
    rw [row] at answer
    exact ⟨mnemonic, (Host.Outcome.next.inj answer).symm⟩

/-- Settles O5, by running the decoder. -/
theorem specWordsDecode : Obligations.SpecWordsDecode := by
  unfold Obligations.SpecWordsDecode
  decide

/-- Settles O54: the expansions are CMD and STATUS writes, and a step of `wait` is a poll. -/
theorem pseudoInstructionsExpand : Obligations.PseudoInstructionsExpand := by
  unfold Obligations.PseudoInstructionsExpand
  refine ⟨fun line word h => ?_, ⟨_, _, rfl, RegName.decode_write .status _⟩, rfl, fun s rest h => ?_⟩
  · have expansion : line.actions = [writeAction .cmd word] := by
      simp only [List.mem_cons, Prod.mk.injEq, List.not_mem_nil, or_false] at h
      rcases h with ⟨rfl, rfl⟩ | ⟨rfl, rfl⟩ | ⟨rfl, rfl⟩ | ⟨rfl, rfl⟩ <;> rfl
    exact ⟨_, _, expansion, RegName.decode_write .cmd word⟩
  · obtain ⟨t, answer, response, regs, inputs⟩ := step_wait_polls h
    obtain ⟨busyBit, -⟩ := statusWord_bits s.phase s.regs
    refine ⟨t, answer, by rw [response], regs, ?_, inputs⟩
    rw [response, busyBit]
    cases s.phase <;> rfl

/-- Settles O55: a line's key is the sum of its fields, and the decoder's row is the one of the key's form. -/
theorem scriptLinesAreTheirTransactions : Obligations.ScriptLinesAreTheirTransactions := by
  unfold Obligations.ScriptLinesAreTheirTransactions
  refine ⟨fun reg => ?_, fun reg value => ?_, fun off value => ⟨?_, ?_⟩, fun size off value narrow => ⟨?_, ?_⟩⟩
  · exact ⟨readKey reg.off, rfl, by rw [toNat_readKey, reg.toNat_off], reg.decode_read 0#32⟩
  · exact ⟨writeKey reg.off, rfl, by rw [toNat_writeKey, reg.toNat_off], reg.decode_write value⟩
  · exact ⟨readKey off, rfl, toNat_readKey off, decode_wordKey false off 0#32⟩
  · exact ⟨writeKey off, rfl, toNat_writeKey off, decode_wordKey true off value⟩
  · exact ⟨makeKey size false off, rfl, (toNat_narrowKey narrow off).1, decode_narrowKey narrow false off 0#32⟩
  · exact ⟨makeKey size true off, rfl, (toNat_narrowKey narrow off).2, decode_narrowKey narrow true off value⟩

end Sys2Proof.Machine
end

section
/-! PROOFS. What a register access answers, stores and leaves alone, said once for the reads and once for the writes
(40_register_access.md). -/

namespace Sys2Proof.Machine

open Sys2Proof

/-! ## Reads -/

/-- A completed read answers its word's number, whatever it notes of ended jobs (20_memory.md R54). -/
theorem readAnswers_completeRead (word : Word) (seen : List JobRecord) (s : State) :
    ReadAnswers s (completeRead word { s with unsynced := seen }) word.toNat :=
  ⟨rfl, rfl, rfl, ⟨rfl, rfl, rfl, rfl⟩, ⟨fun _ => rfl, rfl, rfl, rfl, rfl⟩, rfl⟩

/-- An instruction whose meaning is a completed read and nothing else. -/
theorem read_answers {i : Instr} {s : State} {word : Word} {value : Nat} (meaning : exec i s = .next (completeRead word s))
    (number : word.toNat = value) :
    ∃ t, exec i s = .next t ∧ ReadAnswers s t value ∧ t.unsynced = s.unsynced :=
  ⟨_, meaning, number ▸ readAnswers_completeRead word s.unsynced s, rfl⟩

theorem flagValue_eq_toNat (b : Bool) : flagValue b = b.toNat := by cases b <;> rfl

theorem Phase.beq_busy_eq_isBusy (p : Phase) : (p == .busy) = p.isBusy := by cases p <;> rfl

/-- No columns make no tiles (40_register_access.md R94). -/
theorem ceilDiv_zero (b : Nat) : ceilDiv 0 b = 0 := Nat.le_zero.1 (ceilDiv_le 0 b)

/-- A block as wide as the image makes one tile (40_register_access.md R94). -/
theorem ceilDiv_eq_one {a b : Nat} (pos : 1 ≤ a) (le : a ≤ b) : ceilDiv a b = 1 := by
  have one : 0 < ceilDiv a b := (lt_ceilDiv_iff a b 0 (pos.trans le)).2 (by omega)
  have notTwo : ¬ 1 < ceilDiv a b := fun two => by
    have beyond := (lt_ceilDiv_iff a b 1 (pos.trans le)).1 two
    omega
  omega

/-! ## Writes -/

/-- A write of registers leaves the engine and the platform. -/
theorem writeFrame_writeRegs (r : Regs) (s : State) : WriteFrame s (writeRegs r s) :=
  ⟨⟨rfl, rfl, rfl, rfl⟩, ⟨fun _ => rfl, rfl, rfl, rfl, rfl⟩, rfl, rfl, rfl⟩

/-- An instruction whose meaning is a write of registers. -/
theorem write_stores {i : Instr} {s : State} {r : Regs} (meaning : exec i s = .next (writeRegs r s)) :
    ∃ t, exec i s = .next t ∧ WriteFrame s t ∧ t.regs = r :=
  ⟨_, meaning, writeFrame_writeRegs r s, rfl⟩

/-- A flag that is stored from a bit of DATA has that bit's value. -/
theorem flagValue_getLsbD (data : Word) (k : Nat) : flagValue (data.getLsbD k) = data.toNat / 2 ^ k % 2 := by
  rw [flagValue_eq_toNat, ← BitVec.testBit_toNat, Nat.toNat_testBit]

theorem badInput_latchJob_iff (r : Regs) :
    badInput r.channels (latchJob r) = true ↔ StartFails r .invalidInput := by
  simp [badInput, StartFails, latchJob, Config.channels, ← BitVec.toNat_inj, or_assoc]

/-- START on an IDLE block whose first check fails (41_commands.md R104, R105). -/
theorem startGivesInvalidInput {s : State} (idle : s.phase = .idle) (bad : StartFails s.regs .invalidInput) :
    StartGivesInvalidInput s := by
  have code : startCheck s.regs.channels (latchJob s.regs) = .invalidInput := if_pos ((badInput_latchJob_iff s.regs).2 bad)
  have performed : performedCommand .start = some .start := rfl
  refine ⟨_, exec_of_performedCommand performed s, ?_⟩
  rw [runCommand_start_idle idle]
  rcases startIdle_cases s with ⟨passes, -⟩ | ⟨-, refused⟩
  · rw [code] at passes
    cases passes
  · rw [refused, code]
    exact ⟨rfl, rfl, rfl⟩

/-! ## The clear mask of STATUS -/

theorem ite_clearDone (r : Regs) (b : Bool) : (if b then r.clearDone else r) = { r with done := r.done && !b } := by
  cases b <;> simp [Regs.clearDone]

theorem ite_clearErr (r : Regs) (b : Bool) :
    (if b then r.clearErr else r) = { r with err := r.err && !b, errCode := if b then .none else r.errCode } := by
  cases b <;> simp [Regs.clearErr]

theorem ite_clearWerr (r : Regs) (b : Bool) :
    (if b then r.clearWerr else r) = { r with werr := r.werr && !b, werrCode := if b then .none else r.werrCode } := by
  cases b <;> simp [Regs.clearWerr]

/-- Each flag with its code by its own bit (40_register_access.md R77). -/
theorem clearByMask_eq (r : Regs) (data : Word) :
    r.clearByMask data =
      { r with
        done := r.done && !data.getLsbD 1
        err := r.err && !data.getLsbD 2
        errCode := if data.getLsbD 2 then .none else r.errCode
        werr := r.werr && !data.getLsbD 3
        werrCode := if data.getLsbD 3 then .none else r.werrCode } := by
  simp only [Regs.clearByMask, ite_clearDone, ite_clearErr, ite_clearWerr]

end Sys2Proof.Machine
end

section
/-! PROOFS. The statements about register accesses (40_register_access.md). -/

namespace Sys2Proof.Machine

open Sys2Proof

/-- Settles O10: the flags and the codes are the fields of the word, and BUSY excludes DONE and ERR by the invariant. -/
theorem statusReadReturnsItsFields : Obligations.StatusReadReturnsItsFields := by
  unfold Obligations.StatusReadReturnsItsFields
  intro s data
  obtain ⟨busyBit, doneBit, errBit, -, -⟩ := statusWord_bits s.phase s.regs
  have answers := readAnswers_completeRead (statusWord s.phase s.regs)
    (if s.regs.done || s.regs.err then [] else s.unsynced) s
  refine ⟨RegName.decode_read .status data, _, rfl, ?_, fun inv busy => ?_, ?_⟩
  · simp only [flagValue_eq_toNat, Phase.beq_busy_eq_isBusy]
    exact statusWord_toNat s.phase s.regs ▸ answers
  · rw [completeRead_response] at busy ⊢
    rw [busyBit, Phase.isBusy_eq_true_iff] at busy
    obtain ⟨-, -, running⟩ := (inv_iff s).1 inv
    obtain ⟨done, err, -⟩ := running busy
    exact ⟨doneBit.trans done, errBit.trans err⟩
  · rw [completeRead_response, doneBit, errBit]
    rfl

/-- Settles O11: each word has its field's number, and TX is the ceiling division by a legal BLOCK. -/
theorem geometryReadsReturnTheirFields : Obligations.GeometryReadsReturnTheirFields := by
  unfold Obligations.GeometryReadsReturnTheirFields
  intro s data
  refine ⟨⟨RegName.decode_read .width data, read_answers rfl (widthWord_toNat s.regs)⟩,
    ⟨RegName.decode_read .height data, read_answers rfl (heightWord_toNat s.regs)⟩,
    ⟨RegName.decode_read .block data, ?_⟩, ⟨RegName.decode_read .tiles data, ?_⟩⟩
  · obtain ⟨t, answer, answers, unsynced⟩ := read_answers (i := .rdBlock) (s := s) rfl (blockWord_toNat s.regs)
    refine ⟨t, answer, answers, unsynced, fun inv => ?_⟩
    obtain ⟨-, ⟨-, legal, -⟩, -⟩ := (inv_iff s).1 inv
    obtain ⟨-, number, -⟩ := answers
    rwa [number]
  · have columns := tilesWord_mod s.regs
    refine ⟨_, rfl, rfl, ?_, fun empty => ?_, fun pos le => ?_⟩
    · have number := tilesWord_toNat s.regs
      rw [Nat.mul_comm] at number
      exact number ▸ readAnswers_completeRead (tilesWord s.regs) s.unsynced s
    · exact columns.trans (empty ▸ ceilDiv_zero _)
    · exact columns.trans (ceilDiv_eq_one pos le)

/-- Settles O14: the operands are the low bits of DATA, and a bad one fails the first check of START. -/
theorem fieldWritesStoreLowBits : Obligations.FieldWritesStoreLowBits := by
  unfold Obligations.FieldWritesStoreLowBits
  intro s data
  have size := dimOperand_toNat data
  have channels := channelsOperand_toNat data
  refine ⟨⟨RegName.decode_write .ctrl data, _, rfl, writeFrame_writeRegs _ s, ?_, rfl, rfl⟩,
    ⟨RegName.decode_write .format data, _, rfl, writeFrame_writeRegs _ s, channels, rfl, fun other idle => ?_⟩,
    ⟨RegName.decode_write .width data, _, rfl, writeFrame_writeRegs _ s, size, rfl, ?_, fun zero idle => ?_⟩,
    ⟨RegName.decode_write .height data, _, rfl, writeFrame_writeRegs _ s, size, rfl, ?_, fun zero idle => ?_⟩⟩
  · simp only [writeRegs_regs, flagValue_getLsbD]
    omega
  · exact startGivesInvalidInput idle (.inl fun three => other (channels.symm.trans three))
  · exact size ▸ tilesWord_mod { s.regs with width := dimOperand data }
  · exact startGivesInvalidInput idle (.inr (.inl (size.trans zero)))
  · exact size ▸ tilesWord_div { s.regs with height := dimOperand data }
  · exact startGivesInvalidInput idle (.inr (.inr (size.trans zero)))

/-- Settles O16: the operand is the clamped integer, and both halves of TILES divide by the register that holds it. -/
theorem blockWriteClamps : Obligations.BlockWriteClamps := by
  unfold Obligations.BlockWriteClamps
  intro s data
  exact ⟨RegName.decode_write .block data, _, rfl, writeFrame_writeRegs _ s, blockOperand_toNat data,
    blockOperand_legal data, rfl, tilesWord_mod { s.regs with block := blockOperand data },
    tilesWord_div { s.regs with block := blockOperand data }⟩

/-- Settles O17: each flag goes with its code by its own bit; while BUSY, DONE and ERR are 0 already, by the invariant. -/
theorem statusWriteClearsByMask : Obligations.StatusWriteClearsByMask := by
  unfold Obligations.StatusWriteClearsByMask
  intro s data
  have meaning : exec (.wrStatus data) s = .next (writeRegs (s.regs.clearByMask data) s) := rfl
  rw [clearByMask_eq] at meaning
  refine ⟨RegName.decode_write .status data, _, meaning, writeFrame_writeRegs _ s, rfl, rfl, rfl, rfl, rfl, rfl, rfl,
    fun inv busy => ?_⟩
  obtain ⟨-, ⟨⟨errCodes, -⟩, -⟩, running⟩ := (inv_iff s).1 inv
  obtain ⟨done, err, -⟩ := running busy
  simp [done, err, errCodes.2 err]

/-- Settles O9: each word has its field's number. -/
theorem controlReadsReturnTheirFields : Obligations.ControlReadsReturnTheirFields := by
  unfold Obligations.ControlReadsReturnTheirFields
  intro s data
  refine ⟨⟨RegName.decode_read .id data, read_answers rfl rfl⟩, ⟨RegName.decode_read .ctrl data, ?_⟩,
    ⟨RegName.decode_read .cmd data, read_answers rfl rfl⟩,
    ⟨RegName.decode_read .format data, read_answers rfl (formatWord_toNat s.regs)⟩⟩
  obtain ⟨t, answer, answers, unsynced⟩ := read_answers (i := .rdCtrl) (s := s) rfl (ctrlWord_toNat s.regs)
  simp only [flagValue_eq_toNat]
  exact ⟨t, answer, unsynced, answers⟩

/-- Settles O12: the word is the register. -/
theorem addressReadsReturnTheirRegisters : Obligations.AddressReadsReturnTheirRegisters := by
  unfold Obligations.AddressReadsReturnTheirRegisters
  intro s data
  exact ⟨⟨RegName.decode_read .srcBase data, read_answers rfl rfl⟩,
    ⟨RegName.decode_read .srcStride data, read_answers rfl rfl⟩,
    ⟨RegName.decode_read .dstBase data, read_answers rfl rfl⟩,
    ⟨RegName.decode_read .dstStride data, read_answers rfl rfl⟩⟩

/-- Settles O13: the word is the register, and the invariant says what PROGRESS and ERR_ADDR hold. -/
theorem resultReadsReturnTheirRegisters : Obligations.ResultReadsReturnTheirRegisters := by
  unfold Obligations.ResultReadsReturnTheirRegisters
  intro s data
  have word (w : Word) := readAnswers_completeRead w s.unsynced s
  refine ⟨⟨RegName.decode_read .progress data, _, rfl, word _, rfl, fun inv busy => ?_⟩,
    ⟨RegName.decode_read .errAddr data, _, rfl, word _, rfl, fun inv => ?_⟩⟩
  · obtain ⟨-, -, running⟩ := (inv_iff s).1 inv
    obtain ⟨-, -, -, -, -, count⟩ := running busy
    exact count
  · obtain ⟨-, ⟨-, -, errAddr⟩, -⟩ := (inv_iff s).1 inv
    exact errAddr

/-- Settles O15: the operand is DATA as it is. -/
theorem addressWritesStoreTheWord : Obligations.AddressWritesStoreTheWord := by
  unfold Obligations.AddressWritesStoreTheWord
  intro s data
  exact ⟨⟨RegName.decode_write .srcBase data, write_stores rfl⟩,
    ⟨RegName.decode_write .srcStride data, write_stores rfl⟩,
    ⟨RegName.decode_write .dstBase data, write_stores rfl⟩,
    ⟨RegName.decode_write .dstStride data, write_stores rfl⟩⟩

/-- Settles O18: the meanings are the completed access itself, and an aligned offset from 0x3C on is a reserved one. -/
theorem readOnlyAndReservedAccessesDoNothing : Obligations.ReadOnlyAndReservedAccessesDoNothing := by
  unfold Obligations.ReadOnlyAndReservedAccessesDoNothing
  intro s data
  refine ⟨⟨RegName.decode_write .id data, rfl⟩, ⟨RegName.decode_write .tiles data, rfl⟩,
    ⟨RegName.decode_write .progress data, rfl⟩, ⟨RegName.decode_write .errAddr data, rfl⟩, fun off high aligned => ?_⟩
  have reserved : reservedOff off = true := by
    simp only [reservedOff, Bool.and_eq_true, decide_eq_true_eq]
    exact ⟨(alignedOff_iff_toNat off).2 aligned, high⟩
  exact ⟨decode_reservedRead reserved data, decode_writeKey_reserved off data reserved, rfl, rfl⟩

/-- Settles O20: a CMD write and the decoded command perform the same command. -/
theorem cmdWritePerformsTheCommand : Obligations.CmdWritePerformsTheCommand := by
  unfold Obligations.CmdWritePerformsTheCommand
  intro s word
  have asData : performedCommand (.wrCmd word) = some (decodeCommand word) := rfl
  have asInstr : performedCommand (decode (.cmd word)) = some (decodeCommand word) :=
    (performedCommand_eq_some_iff _ _).2 (.inl rfl)
  exact ⟨RegName.decode_write .cmd word, _, exec_of_performedCommand asData s, exec_of_performedCommand asInstr s, rfl⟩

end Sys2Proof.Machine
end

section
/-! PROOFS. The checks of START as conditions on the programmed registers, and what each command does to the state
(41_commands.md). -/

namespace Sys2Proof.Machine

open Sys2Proof

/-! ## The checks of START on the registers -/

theorem badStride_latchJob_iff (r : Regs) : badStride (latchJob r) = true ↔ StartFails r .badStride := by
  simp only [badStride, Bool.or_eq_true, decide_eq_true_eq]
  simp [StartFails, latchJob]

/-- An address lies past memory's last one where it is not below memory's size. -/
theorem memSize_le_iff (a : Nat) : Config.memSize ≤ a ↔ 0xFFFFFFFF < a := Nat.succ_le_iff

theorem badRange_latchJob_iff (r : Regs) : badRange (latchJob r) = true ↔ StartFails r .range := by
  simp [badRange, memSize_le_iff, StartFails, Job.srcLast, Job.dstLast, latchJob]

theorem badOverlap_latchJob_iff (r : Regs) : badOverlap (latchJob r) = true ↔ StartFails r .overlap := by
  simp only [badOverlap, Bool.and_eq_true, decide_eq_true_eq]
  simp [StartFails, Job.srcFirst, Job.srcLast, Job.dstFirst, Job.dstLast, latchJob]

/-- The model's four checks are those of 41_commands.md R104 on the programmed registers. -/
theorem checks_latchJob_iff (r : Regs) :
    (badInput r.channels (latchJob r) = true ↔ StartFails r .invalidInput) ∧
      (badStride (latchJob r) = true ↔ StartFails r .badStride) ∧ (badRange (latchJob r) = true ↔ StartFails r .range) ∧
      (badOverlap (latchJob r) = true ↔ StartFails r .overlap) :=
  ⟨badInput_latchJob_iff r, badStride_latchJob_iff r, badRange_latchJob_iff r, badOverlap_latchJob_iff r⟩

/-- The code is one whose check fails, and every check before it passes, in the order of 41_commands.md R104. -/
def FailsFirst (r : Regs) (code : ErrCode) : Prop :=
  StartFails r code ∧ ∀ earlier : ErrCode, earlier.bits.toNat < code.bits.toNat → ¬ StartFails r earlier

theorem FailsFirst.ne_none {r : Regs} {code : ErrCode} (h : FailsFirst r code) : code ≠ .none := by
  rintro rfl
  exact h.1

/-- The latched job is refused with the first code whose check fails on the programmed registers. -/
theorem startCheck_of_failsFirst {r : Regs} {code : ErrCode} (h : FailsFirst r code) :
    startCheck r.channels (latchJob r) = code := by
  obtain ⟨fails, first⟩ := h
  have checks := checks_latchJob_iff r
  unfold startCheck
  cases code with
  | none | busRead | busWrite | aborted => exact fails.elim
  | invalidInput => simp only [checks, fails, if_true]
  | badStride => simp only [checks, first .invalidInput (by decide), fails, if_true, if_false]
  | range =>
    simp only [checks, first .invalidInput (by decide), first .badStride (by decide), fails, if_true, if_false]
  | overlap =>
    simp only [checks, first .invalidInput (by decide), first .badStride (by decide), first .range (by decide), fails,
      if_true, if_false]

theorem startCheck_of_none_fails {r : Regs} (h : ∀ code : ErrCode, ¬ StartFails r code) :
    startCheck r.channels (latchJob r) = .none := by
  unfold startCheck
  simp only [checks_latchJob_iff r, h, if_false]

/-! ## What START does on an IDLE block -/

theorem latchHolds_latchJob (r : Regs) : LatchHolds r (latchJob r) :=
  ⟨rfl, rfl, rfl, tilesX_toNat r, tilesY_toNat r, rfl, rfl, rfl, rfl, rfl⟩

theorem exec_start_idle {s : State} (idle : s.phase = .idle) : exec .start s = .next (completeWrite (startIdle s)) :=
  runCommand_start_idle idle ▸ exec_of_performedCommand (c := .start) rfl s

/-- Whether START begins the job or refuses it: DONE, PROGRESS and ERR_ADDR are cleared, the registers are latched, and the
setup, the accumulators, the platform and the records of unseen jobs stay. -/
theorem startIdle_latches (s : State) :
    (startIdle s).regs.done = false ∧ (startIdle s).regs.progress = 0#32 ∧ (startIdle s).regs.errAddr = 0#32 ∧
      SameSetup s.regs (startIdle s).regs ∧ LatchHolds s.regs (startIdle s).job ∧ (startIdle s).acc = s.acc ∧
      SamePlatform s (startIdle s) ∧ (startIdle s).unsynced = s.unsynced ∧ (startIdle s).draws = s.draws := by
  have platform := startIdle_platform s
  have latch := latchHolds_latchJob s.regs
  have setup : SameSetup s.regs (latchForStart s).regs :=
    ⟨rfl, rfl, rfl, rfl, rfl, rfl, rfl, rfl, rfl, rfl, rfl, rfl, rfl, rfl⟩
  rcases startIdle_cases s with ⟨-, begun⟩ | ⟨-, refused⟩
  · rw [begun] at platform ⊢
    exact ⟨rfl, rfl, rfl, setup, latch, rfl, platform, rfl, rfl⟩
  · rw [refused] at platform ⊢
    exact ⟨rfl, rfl, rfl, setup, latch, rfl, platform, rfl, rfl⟩

theorem startIdle_of_failsFirst {s : State} {code : ErrCode} (h : FailsFirst s.regs code) :
    startIdle s = raiseError code 0#32 (latchForStart s) := by
  have check := startCheck_of_failsFirst h
  rcases startIdle_cases s with ⟨passes, -⟩ | ⟨-, refused⟩
  · exact absurd (check.symm.trans passes) h.ne_none
  · rwa [check] at refused

theorem startIdle_of_none_fails {s : State} (h : ∀ code : ErrCode, ¬ StartFails s.regs code) :
    startIdle s = { latchForStart s with cursor := ⟨0#16, 0#16⟩, phase := .busy } := by
  rcases startIdle_cases s with ⟨-, begun⟩ | ⟨refused, -⟩
  · exact begun
  · exact absurd (startCheck_of_none_fails h) refused

/-! ## What the other commands do -/

theorem exec_abort_busy {s : State} (busy : s.phase = .busy) :
    exec .abort s = .next (completeWrite (raiseError .aborted 0#32 s)) :=
  runCommand_abort_busy busy ▸ exec_of_performedCommand (c := .abort) rfl s

theorem exec_abort_idle {s : State} (idle : s.phase = .idle) : exec .abort s = .next (completeWrite s) := by
  have performed := exec_of_performedCommand (i := .abort) (c := .abort) rfl s
  rwa [runCommand_abort_idle idle] at performed

/-- A command word from 4 on is reserved (30_encoding.md R64). -/
theorem decode_command_of_four_le {word : Word} (h : 4 ≤ word.toNat) : decode (.cmd word) = .cmdReserved word :=
  decode_reserved_command word ((reservedCommand_iff_toNat word).2 h)

/-- With no flag set every field of STATUS is 0, and so are CTRL and, for an empty image, TILES. -/
theorem reset_words_zero :
    statusWord .idle Regs.reset = 0#32 ∧ ctrlWord Regs.reset = 0#32 ∧ tilesWord Regs.reset = 0#32 := by decide

end Sys2Proof.Machine
end

section
/-! PROOFS. The statements about the commands (41_commands.md). -/

namespace Sys2Proof.Machine

open Sys2Proof

/-- Settles O23: the first failing check gives the code, and raising it after the latch leaves the block IDLE. -/
theorem startIsRefusedByTheFirstFailingCheck : Obligations.StartIsRefusedByTheFirstFailingCheck := by
  unfold Obligations.StartIsRefusedByTheFirstFailingCheck
  refine ⟨rfl, fun s code idle fails first => ⟨_, exec_start_idle idle, rfl, ?_⟩⟩
  obtain ⟨done, progress, errAddr, setup, latch, acc, stays⟩ := startIdle_latches s
  rw [startIdle_of_failsFirst ⟨fails, first⟩] at *
  exact ⟨rfl, rfl, rfl, done, progress, errAddr, setup, latch, rfl, acc, stays⟩

/-- Settles O24: where no check fails, the latched job begins at the first tile. -/
theorem startBeginsTheJob : Obligations.StartBeginsTheJob := by
  unfold Obligations.StartBeginsTheJob
  refine fun s idle passes => ⟨_, exec_start_idle idle, rfl, ?_⟩
  obtain ⟨done, progress, errAddr, setup, latch, acc, stays⟩ := startIdle_latches s
  rw [startIdle_of_none_fails passes] at *
  exact ⟨rfl, rfl, rfl, done, progress, errAddr, setup, latch, rfl, acc, stays⟩

/-- Settles O21: NOP performs the command that does nothing. -/
theorem nopChangesNothing : Obligations.NopChangesNothing := by
  unfold Obligations.NopChangesNothing
  exact ⟨rfl, exec_of_performedCommand (c := .nop) rfl⟩

/-- Settles O22: words from 4 on are reserved, and a host-protocol error writes WERR and its code alone. -/
theorem reservedCommandRaisesWErr : Obligations.ReservedCommandRaisesWErr := by
  unfold Obligations.ReservedCommandRaisesWErr
  refine ⟨fun s word reserved => ⟨decode_command_of_four_le reserved, ?_⟩, decode_command_of_four_le (by decide)⟩
  have meaning : exec (.cmdReserved word) s = .next (writeRegs (s.regs.setWerr .illegalCmd) s) :=
    exec_of_performedCommand (c := .reserved word) rfl s
  exact ⟨_, meaning, writeFrame_writeRegs _ s, rfl, rfl, rfl⟩

/-- Settles O26: ABORT raises an error on a BUSY block, which leaves the job, and does nothing on an IDLE one. -/
theorem abortEndsTheJob : Obligations.AbortEndsTheJob := by
  unfold Obligations.AbortEndsTheJob
  refine ⟨rfl, fun s => ⟨fun busy => ?_, exec_abort_idle⟩⟩
  exact ⟨_, exec_abort_busy busy, rfl, rfl, rfl, rfl, rfl, ⟨fun _ => rfl, rfl, rfl, rfl, rfl⟩, rfl, rfl, rfl⟩

/-- Settles O28: the registers are those of reset, whose words are 0, and no command touches the platform. -/
theorem softResetRestoresTheRegisters : Obligations.SoftResetRestoresTheRegisters := by
  unfold Obligations.SoftResetRestoresTheRegisters
  obtain ⟨status, ctrl, tiles⟩ := reset_words_zero
  refine ⟨rfl, fun s => ⟨_, exec_of_performedCommand (c := .softReset) rfl s, ?_⟩⟩
  exact ⟨rfl, rfl, status, ctrl, rfl, rfl, rfl, rfl, rfl, rfl, rfl, rfl, tiles, rfl, rfl, rfl,
    runCommand_platform .softReset s, rfl, rfl⟩

end Sys2Proof.Machine
end

section
/-! PROOFS. The rounded mean as the integer nearest to a quotient (42_tile_engine.md R114, R115). -/

namespace Sys2Proof.Machine

open Sys2Proof

/-- The rounded mean goes up above a half, down below it, and at a half as `rnd` says. -/
theorem roundMean_cases (sum n : Nat) (rnd : Bool) :
    (n < 2 * (sum % n) ∧ roundMean sum n rnd = sum / n + 1) ∨
      (2 * (sum % n) < n ∧ roundMean sum n rnd = sum / n) ∨
      (2 * (sum % n) = n ∧ roundMean sum n rnd = if rnd then sum / n + sum / n % 2 else sum / n + 1) := by
  unfold roundMean
  rcases Nat.lt_trichotomy n (2 * (sum % n)) with above | half | below
  · exact .inl ⟨above, by simp [above]⟩
  · exact .inr (.inr ⟨half.symm, by simp [half.symm]⟩)
  · exact .inr (.inl ⟨below, by simp [below, below.le.not_gt]⟩)

/-- At a half the rounded mean is one of the two neighbours. -/
theorem roundMean_of_half {sum n : Nat} {rnd : Bool} (half : 2 * (sum % n) = n) :
    roundMean sum n rnd = if rnd then sum / n + sum / n % 2 else sum / n + 1 := by
  rcases roundMean_cases sum n rnd with ⟨h, -⟩ | ⟨h, -⟩ | ⟨-, e⟩
  · omega
  · omega
  · exact e

/-- The rounded mean differs from the quotient by at most a half. -/
theorem roundMean_nearest {sum n : Nat} (rnd : Bool) (hn : 1 ≤ n) :
    2 * sum ≤ 2 * (roundMean sum n rnd * n) + n ∧ 2 * (roundMean sum n rnd * n) ≤ 2 * sum + n := by
  have split : sum / n * n + sum % n = sum := Nat.div_add_mod' sum n
  have below : sum % n < n := Nat.mod_lt sum hn
  have next : (sum / n + 1) * n = sum / n * n + n := Nat.succ_mul _ n
  rcases roundMean_cases sum n rnd with ⟨h, e⟩ | ⟨h, e⟩ | ⟨h, e⟩
  · rw [e, next]
    omega
  · rw [e]
    omega
  · have neighbour : roundMean sum n rnd = sum / n ∨ roundMean sum n rnd = sum / n + 1 := by
      rw [e]
      split <;> omega
    rcases neighbour with e | e <;> rw [e] <;> omega

/-- The rounded mean of a quotient between two integers lies between them. -/
theorem roundMean_between {sum n least greatest : Nat} (rnd : Bool) (hn : 1 ≤ n) (low : n * least ≤ sum)
    (high : sum ≤ n * greatest) : least ≤ roundMean sum n rnd ∧ roundMean sum n rnd ≤ greatest := by
  obtain ⟨above, below⟩ := roundMean_nearest (sum := sum) rnd hn
  rw [Nat.mul_comm _ n] at above below
  constructor
  · by_contra hlt
    have gap : n * (roundMean sum n rnd + 1) ≤ n * least := Nat.mul_le_mul_left n (by omega)
    rw [Nat.mul_succ] at gap
    omega
  · by_contra hlt
    have gap : n * (greatest + 1) ≤ n * roundMean sum n rnd := Nat.mul_le_mul_left n (by omega)
    rw [Nat.mul_succ] at gap
    omega

/-- The rounded mean of samples fits a byte (42_tile_engine.md R115). -/
theorem roundMean_le_255 {sum n : Nat} (rnd : Bool) (hn : 1 ≤ n) (h : sum ≤ 255 * n) : roundMean sum n rnd ≤ 255 :=
  (roundMean_between (least := 0) rnd hn (Nat.zero_le sum) (Nat.mul_comm 255 n ▸ h)).2

/-- Where a quotient is an integer, that is its rounded mean. -/
theorem roundMean_mul (v : Nat) {n : Nat} (rnd : Bool) (hn : 1 ≤ n) : roundMean (n * v) n rnd = v := by
  obtain ⟨above, below⟩ := roundMean_between rnd hn (le_refl (n * v)) (le_refl (n * v))
  omega

/-- Where ties go up the rounded mean is the floor of the quotient plus a half. -/
theorem roundMean_up (sum : Nat) {n : Nat} (hn : 1 ≤ n) : roundMean sum n false = (2 * sum + n) / (2 * n) := by
  have below : sum % n < n := Nat.mod_lt sum hn
  have floor : (2 * sum + n) / (2 * n) = (2 * (sum % n) + n) / (2 * n) + sum / n := by
    rw [← Nat.add_mul_div_left _ _ (by omega : 0 < 2 * n), Nat.mul_assoc]
    congr 1
    have := Nat.div_add_mod sum n
    omega
  have carry (up : n ≤ 2 * (sum % n)) : (2 * (sum % n) + n) / (2 * n) = 1 :=
    Nat.div_eq_of_lt_le (by omega) (by omega)
  rw [floor]
  rcases roundMean_cases sum n false with ⟨h, e⟩ | ⟨h, e⟩ | ⟨h, e⟩
  · rw [e, carry h.le, Nat.add_comm]
  · have noCarry : (2 * (sum % n) + n) / (2 * n) = 0 := Nat.div_eq_of_lt (by omega)
    rw [e, noCarry, Nat.zero_add]
  · rw [e, carry h.ge, if_neg Bool.false_ne_true, Nat.add_comm]

/-- The sum of samples between two bounds lies between as many times each bound. -/
theorem sum_between {samples : List Nat} {least greatest : Nat} (h : ∀ v ∈ samples, least ≤ v ∧ v ≤ greatest) :
    samples.length * least ≤ samples.sum ∧ samples.sum ≤ samples.length * greatest :=
  ⟨List.card_nsmul_le_sum samples least fun v hv => (h v hv).1,
    List.sum_le_card_nsmul samples greatest fun v hv => (h v hv).2⟩

end Sys2Proof.Machine
end

section
/-! PROOFS. The pixels of a tile and what the accumulators make of them (42_tile_engine.md R109 to R113, R121). -/

namespace Sys2Proof.Machine

open Sys2Proof

/-! ## The sum of a tile -/

theorem readSum_tileReads_eq_tileSum (m : Memory) (j : Job) (col row : Nat) (c : Fin 3) :
    readSum m (j.tileReads col row) c = tileSum m j col row c.val :=
  readSum_tileReads m j col row c

/-- A channel of a tile sums to at most 255 for each pixel. -/
theorem tileSum_le (m : Memory) (j : Job) (col row c : Nat) : tileSum m j col row c ≤ 255 * j.tileCount col row := by
  have byte : ∀ v ∈ (j.tilePixels col row).map fun p => (Memory.read m (j.srcAddr p.1 p.2 c)).toNat, v ≤ 255 := by
    intro v hv
    obtain ⟨p, -, rfl⟩ := List.mem_map.1 hv
    exact Nat.le_of_lt_succ (Memory.read m (j.srcAddr p.1 p.2 c)).isLt
  have bound := List.sum_le_card_nsmul _ 255 byte
  rwa [List.length_map, length_tilePixels, smul_eq_mul, Nat.mul_comm] at bound

/-- A tile of a legal block size holds at most 65536 pixels. -/
theorem tileCount_le_65536 {j : Job} (hb : j.b.toNat ≤ 256) (col row : Nat) : j.tileCount col row ≤ 65536 :=
  (tileCount_le j col row).trans (Nat.mul_le_mul hb hb)

/-- A tile of the grid holds a pixel. -/
theorem Job.Startable.tileCount_pos {j : Job} (h : j.Startable) {col row : Nat} (hcol : col < j.tx.toNat)
    (hrow : row < j.ty.toNat) : 1 ≤ j.tileCount col row :=
  Machine.tileCount_pos j col row h.block_pos ((h.col_lt_iff col).1 hcol) ((h.row_lt_iff row).1 hrow)

/-- A tile sums alike in memories that hold the same source. -/
theorem tileSum_congr {m m' : Memory} {j : Job} (hb : 1 ≤ j.b.toNat) {c : Nat} (hc : c < 3)
    (same : ∀ x y c, x < j.w.toNat → y < j.h.toNat → c < 3 →
      Memory.read m (j.srcAddr x y c) = Memory.read m' (j.srcAddr x y c)) (col row : Nat) :
    tileSum m j col row c = tileSum m' j col row c := by
  unfold tileSum
  congr 1
  refine List.map_congr_left fun p hp => ?_
  obtain ⟨⟨hx, -⟩, hy, -⟩ := (mem_tilePixels_iff_div hb col row p.1 p.2).1 hp
  rw [same p.1 p.2 c hx hy hc]

/-- The byte of a job fits: it is the rounded mean itself. -/
theorem jobByte_toNat (m : Memory) {j : Job} {col row : Nat} (hn : 1 ≤ j.tileCount col row) (c : Nat) :
    (jobByte m j col row c).toNat = roundMean (tileSum m j col row c) (j.tileCount col row) j.rnd := by
  have fits := roundMean_le_255 j.rnd hn (tileSum_le m j col row c)
  unfold jobByte
  rw [BitVec.toNat_ofNat]
  omega

/-! ## The accumulators of a tile -/

@[simp] theorem start_sum (count : Nat) (c : Fin 3) : (Accumulators.start count).sum c = 0#24 := by
  fin_cases c <;> rfl

/-- The count register holds the tile's count (42_tile_engine.md R112). -/
theorem accumulate_tile_cnt (m : Memory) {j : Job} (hb : j.b.toNat ≤ 256) (col row : Nat) :
    (accumulate m (j.tileReads col row) (Accumulators.start (j.tileCount col row))).cnt.toNat = j.tileCount col row := by
  have small := tileCount_le_65536 hb col row
  rw [accumulate_cnt]
  unfold Accumulators.start
  rw [BitVec.toNat_ofNat]
  omega

/-- The sum registers hold the tile's sums (42_tile_engine.md R112). -/
theorem accumulate_tile_sum (m : Memory) {j : Job} (hb : j.b.toNat ≤ 256) (col row : Nat) (c : Fin 3) :
    ((accumulate m (j.tileReads col row) (Accumulators.start (j.tileCount col row))).sum c).toNat =
      tileSum m j col row c.val := by
  have small := tileCount_le_65536 hb col row
  have bound := tileSum_le m j col row c.val
  rw [accumulate_sum, start_sum, readSum_tileReads_eq_tileSum, BitVec.toNat_zero]
  omega

/-- The accumulators round to the byte of the job. -/
theorem accumulate_tile_mean (m : Memory) {j : Job} (hb : j.b.toNat ≤ 256) (col row : Nat) (c : Fin 3) :
    (accumulate m (j.tileReads col row) (Accumulators.start (j.tileCount col row))).mean c j.rnd =
      jobByte m j col row c.val := by
  unfold Accumulators.mean jobByte
  rw [accumulate_tile_sum m hb, accumulate_tile_cnt m hb]

/-- Reads that all succeed leave the accumulated sums. -/
theorem readTile_eq_ok {m : Memory} {gaps : List BusGap} {reads : List (Fin 3 × Nat)} {start acc : Accumulators}
    (h : readTile m gaps reads start = .ok acc) : acc = accumulate m reads start := by
  rcases readTile_cases m gaps reads start with ⟨e, -⟩ | ⟨_, _, _, _, -, -, -, e⟩
  · exact (Except.ok.inj (e.symm.trans h)).symm
  · cases e.symm.trans h

end Sys2Proof.Machine
end

section
/-! PROOFS. What a tile step writes, counts and leaves alone (42_tile_engine.md R117, R119). -/

namespace Sys2Proof.Machine

open Sys2Proof

/-! ## The writes of the tile at the cursor -/

/-- The destination byte of a channel of the tile at the cursor. -/
def State.curDst (s : State) (c : Nat) : Nat := s.job.dstAddr s.cursor.cbx.toNat s.cursor.cby.toNat c

/-- The byte of a channel of the tile at the cursor, from memory as it is. -/
def State.curByte (s : State) (c : Nat) : Byte := jobByte s.mem s.job s.cursor.cbx.toNat s.cursor.cby.toNat c

/-- The address is no destination byte of the tile at the cursor. -/
abbrev State.OutsideCur (s : State) (a : Nat) : Prop := OutsideTile s.job s.cursor.cbx.toNat s.cursor.cby.toNat a

/-- The engine writes the bytes of the job. -/
theorem curWrites_eq {s : State} (hb : s.job.b.toNat ≤ 256) :
    s.curWrites = [(s.curDst 0, s.curByte 0), (s.curDst 1, s.curByte 1), (s.curDst 2, s.curByte 2)] := by
  have mean (c : Fin 3) : s.curAcc.mean c s.job.rnd = s.curByte c.val := accumulate_tile_mean s.mem hb _ _ c
  unfold State.curWrites Job.tileWrites
  rw [mean 0, mean 1, mean 2]
  rfl

theorem curWrites_addrs (s : State) : s.curWrites.map Prod.fst = [s.curDst 0, s.curDst 1, s.curDst 2] := rfl

/-- The tile's writes are to its three destination bytes. -/
theorem curWrites_mem_addr {s : State} {w : Nat × Byte} (hw : w ∈ s.curWrites) : ∃ c, c < 3 ∧ w.1 = s.curDst c := by
  have ha : w.1 ∈ s.curWrites.map Prod.fst := List.mem_map_of_mem hw
  rw [curWrites_addrs] at ha
  exact (mem_rasterCell ..).1 ha

/-- The tile's writes, however many are performed, leave every byte outside the tile. -/
theorem read_writeAll_outside {s : State} (hm : Memory.wf s.mem = true) {written : List (Nat × Byte)}
    (h : written ⊆ s.curWrites) {a : Nat} (ha : s.OutsideCur a) :
    Memory.read (writeAll written s.mem) a = Memory.read s.mem a := by
  refine read_writeAll written s.mem hm a fun w hw e => ?_
  obtain ⟨c, hc, e'⟩ := curWrites_mem_addr (h hw)
  exact ha c hc (e.symm.trans e')

/-- All the tile's writes leave its three bytes in memory. -/
theorem read_writeAll_curDst {s : State} (inv : s.Inv) (hp : s.phase = .busy) {c : Nat} (hc : c < 3) :
    Memory.read (writeAll s.curWrites s.mem) (s.curDst c) = s.curByte c := by
  obtain ⟨hm, -, running⟩ := (inv_iff s).1 inv
  obtain ⟨-, -, startable, hcol, hrow, -⟩ := running hp
  have ⟨_, legal, _⟩ := startable
  have inMemory : s.curDst 2 < Config.memSize := by
    obtain ⟨-, last⟩ := dstAddr_in_range s.job hcol hrow (c := 2) (by omega)
    obtain ⟨-, fits, -⟩ := startable.ranges
    exact Nat.lt_succ_of_le (last.trans fits)
  have d1 : s.curDst 1 = s.curDst 0 + 1 := rfl
  have d2 : s.curDst 2 = s.curDst 0 + 2 := rfl
  have wf0 := wf_write s.mem hm (s.curDst 0) (s.curByte 0)
  have wf1 := wf_write _ wf0 (s.curDst 1) (s.curByte 1)
  rw [curWrites_eq legal]
  simp only [writeAll, List.foldl_cons, List.foldl_nil]
  rw [read_write _ wf1 _ _ inMemory, read_write _ wf0 _ _ (by omega), read_write _ hm _ _ (by omega)]
  interval_cases c
  · rw [if_neg (by omega), if_neg (by omega), if_pos rfl]
  · rw [if_neg (by omega), if_pos rfl]
  · rw [if_pos rfl]

/-! ## The tile step -/

/-- After a written tile PROGRESS counts one more; memory and the actions to come stay. -/
theorem advance_counts (s : State) :
    (advance s).regs.progress = s.regs.progress + 1#32 ∧ (advance s).mem = s.mem ∧ (advance s).inputs = s.inputs := by
  rcases advance_cases s with ⟨-, e⟩ | ⟨-, -, e⟩ | ⟨-, -, e⟩
  · rw [e]; exact ⟨rfl, rfl, rfl⟩
  · rw [e]; exact ⟨rfl, rfl, rfl⟩
  · rw [e]; exact ⟨rfl, rfl, rfl⟩

/-- A tile step performs some of the tile's writes and counts nothing, or performs them all and counts the tile. -/
theorem processTile_writes (s : State) :
    (∃ written, written ⊆ s.curWrites ∧ (processTile s).mem = writeAll written s.mem ∧
        (processTile s).regs.progress = s.regs.progress) ∨
      ((processTile s).mem = writeAll s.curWrites s.mem ∧ (processTile s).regs.progress = s.regs.progress + 1#32) := by
  rcases processTile_cases s with ⟨_, _, _, _, -, -, -, e⟩ | ⟨-, before, _, _, _, split, -, -, e⟩ | ⟨-, -, e⟩
  · rw [e]
    exact .inl ⟨[], List.nil_subset _, rfl, rfl⟩
  · rw [e, split]
    exact .inl ⟨before, List.subset_append_left .., rfl, rfl⟩
  · obtain ⟨progress, mem, -⟩ := advance_counts { s with acc := s.curAcc, mem := writeAll s.curWrites s.mem }
    rw [e]
    exact .inr ⟨mem, progress⟩

/-- A tile step leaves the actions to come. -/
theorem processTile_inputs (s : State) : (processTile s).inputs = s.inputs := by
  rcases processTile_cases s with ⟨_, _, _, _, -, -, -, e⟩ | ⟨-, _, _, _, _, -, -, -, e⟩ | ⟨-, -, e⟩
  · rw [e]; rfl
  · rw [e]; rfl
  · obtain ⟨-, -, inputs⟩ := advance_counts { s with acc := s.curAcc, mem := writeAll s.curWrites s.mem }
    rw [e]
    exact inputs

/-- A tile step leaves every byte outside its tile. -/
theorem read_processTile_outside {s : State} (hm : Memory.wf s.mem = true) {a : Nat} (ha : s.OutsideCur a) :
    Memory.read (processTile s).mem a = Memory.read s.mem a := by
  rcases processTile_writes s with ⟨written, sub, mem, -⟩ | ⟨mem, -⟩
  · rw [mem]; exact read_writeAll_outside hm sub ha
  · rw [mem]; exact read_writeAll_outside hm (List.Subset.refl _) ha

/-- A tile step of a running job leaves every byte that is no destination byte of the job. -/
theorem read_processTile_of_not_writes {s : State} (inv : s.Inv) (hp : s.phase = .busy) {a : Nat}
    (ha : ¬ s.job.Writes a) : Memory.read (processTile s).mem a = Memory.read s.mem a := by
  obtain ⟨hm, -, running⟩ := (inv_iff s).1 inv
  obtain ⟨-, -, -, hcol, hrow, -⟩ := running hp
  exact read_processTile_outside hm fun c hc e => ha ⟨_, _, c, hcol, hrow, hc, e⟩

/-- Every access of the tile at the cursor succeeds. -/
def State.CurAnswered (s : State) : Prop :=
  (∀ p ∈ s.job.tilePixels s.cursor.cbx.toNat s.cursor.cby.toNat, ∀ c, c < 3 →
      busOk s.busGaps (s.job.srcAddr p.1 p.2 c) .read = true) ∧
    ∀ c, c < 3 → busOk s.busGaps (s.curDst c) .write = true

/-- Where every access of its tile succeeds, the step writes the tile and advances. -/
theorem processTile_of_answered {s : State} (h : s.CurAnswered) :
    processTile s = advance { s with acc := s.curAcc, mem := writeAll s.curWrites s.mem } := by
  obtain ⟨reads, writes⟩ := h
  rcases processTile_cases s with ⟨_, c, a, _, split, -, refused, -⟩ | ⟨-, _, a, v, _, split, -, refused, -⟩ | ⟨-, -, e⟩
  · have hr : (c, a) ∈ s.curReads := by simp [split]
    obtain ⟨p, hp, rfl⟩ := (mem_tileReads ..).1 hr
    exact absurd refused (by simp [reads p hp c.val c.isLt])
  · have hw : (a, v) ∈ s.curWrites := by simp [split]
    obtain ⟨c, hc, rfl⟩ := curWrites_mem_addr hw
    exact absurd refused (by simp [writes c hc])
  · exact e

/-- While a job runs, the engine's step is a tile step. -/
theorem tileStep_busy {s : State} (inv : s.Inv) (hp : s.phase = .busy) : tileStep s = .next (processTile s) := by
  obtain ⟨-, -, running⟩ := (inv_iff s).1 inv
  simp [tileStep, hp, tileReady_of_running (running hp)]

/-- Memory holds the rounded means of the tile at the cursor, and every other byte as before (42_tile_engine.md R113). -/
def State.TileWritten (s : State) (m : Memory) : Prop :=
  (∀ c, c < 3 → (Memory.read m (s.curDst c)).toNat =
      roundMean (tileSum s.mem s.job s.cursor.cbx.toNat s.cursor.cby.toNat c)
        (s.job.tileCount s.cursor.cbx.toNat s.cursor.cby.toNat) s.job.rnd) ∧
    ∀ a, s.OutsideCur a → Memory.read m a = Memory.read s.mem a

/-- All the tile's writes write its rounded means. -/
theorem tileWritten_writeAll {s : State} (inv : s.Inv) (hp : s.phase = .busy) :
    s.TileWritten (writeAll s.curWrites s.mem) := by
  obtain ⟨hm, -, running⟩ := (inv_iff s).1 inv
  obtain ⟨-, -, startable, hcol, hrow, -⟩ := running hp
  refine ⟨fun c hc => ?_, fun a => read_writeAll_outside hm (List.Subset.refl _)⟩
  rw [read_writeAll_curDst inv hp hc]
  exact jobByte_toNat s.mem (startable.tileCount_pos hcol hrow) c

end Sys2Proof.Machine
end

section
/-! PROOFS. Which tiles hold their bytes, after each action of an interleaving (42_tile_engine.md R121). -/

namespace Sys2Proof.Machine

open Sys2Proof

/-! ## The tile step -/

/-- The place of a tile of the grid in row-major order is below the number of tiles. -/
theorem tileIndex_lt {tx ty col row : Nat} (hcol : col < tx) (hrow : row < ty) : row * tx + col < tx * ty := by
  have rows : (row + 1) * tx ≤ ty * tx := Nat.mul_le_mul_right tx hrow
  rw [Nat.succ_mul, Nat.mul_comm ty] at rows
  omega

/-- Tiles of the grid at the same place in row-major order are the same. -/
theorem tileIndex_injective {tx col row col' row' : Nat} (hcol : col < tx) (hcol' : col' < tx)
    (h : row * tx + col = row' * tx + col') : col = col' ∧ row = row' := by
  have place {c : Nat} (r : Nat) (hc : c < tx) : (r * tx + c) % tx = c ∧ (r * tx + c) / tx = r := by
    rw [Nat.mul_comm, Nat.mul_add_mod, Nat.mod_eq_of_lt hc, Nat.mul_add_div (by omega), Nat.div_eq_of_lt hc]
    exact ⟨rfl, rfl⟩
  obtain ⟨mod, div⟩ := place row hcol
  obtain ⟨mod', div'⟩ := place row' hcol'
  rw [h] at mod div
  exact ⟨mod.symm.trans mod', div.symm.trans div'⟩

/-- The bytes of another tile of the grid lie outside the tile at the cursor. -/
theorem State.Running.outsideCur_dst {s : State} (h : s.Running) {col row c : Nat} (hcol : col < s.job.tx.toNat)
    (hc : c < 3) (other : row * s.job.tx.toNat + col ≠ s.regs.progress.toNat) :
    s.OutsideCur (s.job.dstAddr col row c) := by
  obtain ⟨-, -, startable, hx, -, count⟩ := h
  intro c' hc' e
  obtain ⟨rfl, rfl, -⟩ := startable.dstAddr_injective hcol hc hx hc' e
  exact other count.symm

/-- The job's source lies outside the tile at the cursor. -/
theorem State.Running.outsideCur_src {s : State} (h : s.Running) {x y c : Nat} (hx : x < s.job.w.toNat)
    (hy : y < s.job.h.toNat) (hc : c < 3) : s.OutsideCur (s.job.srcAddr x y c) := by
  obtain ⟨-, -, startable, hcol, hrow, -⟩ := h
  exact fun c' hc' e => startable.srcAddr_not_written hx hy hc ⟨_, _, c', hcol, hrow, hc', e⟩

/-- A tile step keeps what the counted tiles hold, and the tile that it counts is written from the same source. -/
theorem tilesDone_processTile {m0 : Memory} {s : State} (inv : s.Inv) (hp : s.phase = .busy) (tiles : s.TilesDone m0) :
    (processTile s).TilesDone m0 := by
  obtain ⟨hm, -, running⟩ := (inv_iff s).1 inv
  have run := running hp
  obtain ⟨done, source⟩ := tiles
  obtain ⟨job, -⟩ := processTile_records s
  unfold State.TilesDone
  rw [job]
  refine ⟨fun col row c hcol hrow hc counted => ?_, fun x y c hx hy hc => ?_⟩
  · by_cases here : row * s.job.tx.toNat + col = s.regs.progress.toNat
    · obtain ⟨-, -, startable, hx, hy, count⟩ := run
      obtain ⟨rfl, rfl⟩ := tileIndex_injective hcol hx (here.trans count)
      rcases processTile_writes s with ⟨_, -, -, progress⟩ | ⟨mem, -⟩
      · rw [progress] at counted
        omega
      · have written := read_writeAll_curDst inv hp hc
        rw [mem]
        refine written.trans ?_
        unfold State.curByte jobByte
        rw [tileSum_congr startable.block_pos hc source]
    · rw [read_processTile_outside hm (run.outsideCur_dst hcol hc here)]
      refine done col row c hcol hrow hc ?_
      rcases processTile_writes s with ⟨_, -, -, progress⟩ | ⟨-, progress⟩
      · rwa [progress] at counted
      · have next := progress_add_one run
        obtain ⟨-, -, -, -, -, count⟩ := run
        rw [progress] at counted
        omega
  · rw [read_processTile_outside hm (run.outsideCur_src hx hy hc)]
    exact source x y c hx hy hc

/-! ## The next state of an interleaving -/

/-- What R121 says of the state after an action of an interleaving, for the running job `j`. -/
def State.GridKept (m0 : Memory) (j : Job) (t : State) : Prop :=
  (t.phase = .busy → t.job = j ∧ t.raced = false ∧ t.TilesDone m0) ∧
    (t.regs.done = true → ∀ col row c, col < j.tx.toNat → row < j.ty.toNat → c < 3 →
      Memory.read t.mem (j.dstAddr col row c) = jobByte m0 j col row c)

/-- A tile step keeps the grid; where it completes the job PROGRESS counts every tile. -/
theorem gridKept_processTile {m0 : Memory} {s : State} (inv : s.Inv) (hp : s.phase = .busy) (hr : s.raced = false)
    (tiles : s.TilesDone m0) : (processTile s).GridKept m0 s.job := by
  obtain ⟨-, -, running⟩ := (inv_iff s).1 inv
  obtain ⟨job, raced, -⟩ := processTile_records s
  have next := tilesDone_processTile inv hp tiles
  refine ⟨fun _ => ⟨job, raced.trans hr, next⟩, fun hd col row c hcol hrow hc => ?_⟩
  obtain ⟨-, all⟩ := processTile_progress (running hp)
  obtain ⟨done, -⟩ := next
  rw [job] at done
  refine done col row c hcol hrow hc ?_
  rw [all hd]
  exact tileIndex_lt hcol hrow

/-- An action that leaves the job, PROGRESS, DONE and the bytes of the job's ranges keeps the grid. -/
theorem gridKept_of_same_ranges {m0 : Memory} {s t : State} (tiles : s.TilesDone m0) (hd : t.regs.done = false)
    (kept : t.phase = .busy → t.job = s.job ∧ t.raced = false ∧ t.regs.progress = s.regs.progress)
    (same : ∀ a, s.job.inRanges a = true → Memory.read t.mem a = Memory.read s.mem a) : t.GridKept m0 s.job := by
  refine ⟨fun ht => ?_, fun hd' => absurd hd' (by simp [hd])⟩
  obtain ⟨job, raced, progress⟩ := kept ht
  obtain ⟨done, source⟩ := tiles
  unfold State.TilesDone
  rw [job, progress]
  refine ⟨rfl, raced, fun col row c hcol hrow hc counted => ?_, fun x y c hx hy hc => ?_⟩
  · have range := dstAddr_in_range s.job hcol hrow hc
    rw [same _ (by simp [Job.inRanges, range])]
    exact done col row c hcol hrow hc counted
  · have range := srcAddr_in_range s.job hx hy hc
    rw [same _ (by simp [Job.inRanges, range])]
    exact source x y c hx hy hc

/-- No command sets DONE on a BUSY block. -/
theorem runCommand_busy_done {s : State} (hp : s.phase = .busy) (hd : s.regs.done = false) (c : Command) :
    (runCommand c s).regs.done = false := by
  cases c with
  | nop | reserved => simp [hd]
  | start => simp [runCommand_start_busy hp, hd]
  | abort => simp [runCommand_abort_busy hp, hd]
  | softReset => rfl

/-- No transaction sets DONE on a BUSY block. -/
theorem exec_busy_done {i : Instr} {s t : State} (h : exec i s = .next t) (hp : s.phase = .busy)
    (hd : s.regs.done = false) : t.regs.done = false := by
  cases hc : performedCommand i with
  | some c =>
    obtain rfl := Host.Outcome.next.inj ((exec_of_performedCommand hc s).symm.trans h)
    exact runCommand_busy_done hp hd c
  | none =>
    obtain ⟨r, resp, seen, e, keeps, -⟩ := exec_access hc s
    obtain rfl := Host.Outcome.next.inj (e.symm.trans h)
    exact Bool.eq_false_iff.2 fun hr => by simp [keeps.done hr] at hd

/-- A transaction keeps the grid: it touches no memory, and ends the job or leaves it. -/
theorem gridKept_exec {m0 : Memory} {i : Instr} {s t : State} (inv : s.Inv) (hp : s.phase = .busy)
    (hr : s.raced = false) (tiles : s.TilesDone m0) (h : exec i s = .next t) : t.GridKept m0 s.job := by
  obtain ⟨-, -, running⟩ := (inv_iff s).1 inv
  obtain ⟨hd, -⟩ := running hp
  refine gridKept_of_same_ranges tiles (exec_busy_done h hp hd) (fun ht => ?_) fun a _ => by rw [exec_mem h]
  obtain ⟨u, e, -, keeps⟩ := onlyAbortAndResetEndARunningJob i s hp
  obtain rfl := Host.Outcome.next.inj (e.symm.trans h)
  obtain ⟨job, raced⟩ := (BlockMove.transaction i h).keeps_job hp ht
  obtain ⟨-, -, -, progress, -⟩ := keeps ht
  exact ⟨job, raced.trans hr, progress⟩

/-- A memory write outside the job's ranges keeps the grid. -/
theorem gridKept_hostWrite {m0 : Memory} {s : State} (inv : s.Inv) (hp : s.phase = .busy) (hr : s.raced = false)
    (tiles : s.TilesDone m0) {addr : Word} (outside : s.job.inRanges addr.toNat = false) (value : Byte) :
    (hostWrite addr value s).GridKept m0 s.job := by
  obtain ⟨hm, -, running⟩ := (inv_iff s).1 inv
  obtain ⟨hd, -⟩ := running hp
  obtain ⟨mem, regs, job, -, -, -, -, -, -, -, -, raced⟩ := hostWrite_frame addr value s
  have notRaced : (hostWrite addr value s).raced = false := by simp [raced, hr, outside]
  refine gridKept_of_same_ranges tiles (regs ▸ hd) (fun _ => ⟨job, notRaced, by rw [regs]⟩) fun a ha => ?_
  rw [mem]
  refine read_write_ne s.mem hm _ _ _ ?_
  rintro rfl
  simp [outside] at ha

/-- A memory read of the host keeps the grid. -/
theorem gridKept_hostRead {m0 : Memory} {s : State} (inv : s.Inv) (hp : s.phase = .busy) (hr : s.raced = false)
    (tiles : s.TilesDone m0) (addr : Word) : (hostRead addr s).GridKept m0 s.job := by
  obtain ⟨-, -, running⟩ := (inv_iff s).1 inv
  obtain ⟨hd, -⟩ := running hp
  obtain ⟨mem, regs, job, -, -, raced, -⟩ := hostRead_frame addr s
  exact gridKept_of_same_ranges tiles (regs ▸ hd) (fun _ => ⟨job, raced.trans hr, by rw [regs]⟩) fun a _ => by rw [mem]

/-- Where nobody raced, the platform leaves memory as the block left it. -/
theorem settle_mem_of_not_raced {before : State} (hr : before.raced = false) (after : State) :
    (settle before after).mem = after.mem := by
  rcases settle_mem before after with e | ⟨-, -, raced, -⟩
  · exact e
  · simp [hr] at raced

/-- The platform's bookkeeping keeps the grid where nobody raced. -/
theorem gridKept_settle {m0 : Memory} {j : Job} {before after : State} (hp : before.phase = .busy)
    (hr : before.raced = false) (h : after.GridKept m0 j) : (settle before after).GridKept m0 j := by
  have mem := settle_mem_of_not_raced hr after
  obtain ⟨regs, -, phase, -⟩ := settle_frame before after
  obtain ⟨busy, done⟩ := h
  refine ⟨fun ht => ?_, ?_⟩
  · rw [phase] at ht
    rw [settle_same_phase before after (ht.trans hp.symm)]
    exact busy ht
  · rw [regs, mem]
    exact done

/-- Settling an outcome keeps the grid where nobody raced. -/
theorem settleOutcome_keeps_grid {m0 : Memory} {j : Job} {before : State} (hp : before.phase = .busy)
    (hr : before.raced = false) {out : Host.Outcome State Fault Refusal} (h : ∃ t, out = .next t ∧ t.GridKept m0 j) :
    ∃ t, settleOutcome before out = .next t ∧ t.GridKept m0 j := by
  obtain ⟨t, rfl, kept⟩ := h
  exact ⟨_, rfl, gridKept_settle hp hr kept⟩

/-- A poll that goes round keeps the grid. -/
theorem gridKept_pollAgain {m0 : Memory} {j : Job} {t : State} (h : t.GridKept m0 j) : (pollAgain t).GridKept m0 j := by
  rw [pollAgain_changes_inputs]
  exact h

/-- The engine's move keeps the grid. -/
theorem engineMove_keeps_grid {m0 : Memory} {s : State} (inv : s.Inv) (hp : s.phase = .busy) (hr : s.raced = false)
    (tiles : s.TilesDone m0) : ∃ t, engineMove s = .next t ∧ t.GridKept m0 s.job :=
  settleOutcome_keeps_grid hp hr ⟨_, tileStep_busy inv hp, gridKept_processTile inv hp hr tiles⟩

end Sys2Proof.Machine
end

section
/-! PROOFS. A job with no other action meanwhile, from its first tile on (42_tile_engine.md R121). -/

namespace Sys2Proof.Machine

open Sys2Proof

theorem run_succ_of_step {s t : State} (h : step s = .next t) (k : Nat) :
    Host.Core.run Sys2Proof.core (k + 1) s = Host.Core.run Sys2Proof.core k t := by
  have h' : Sys2Proof.core.step s = .next t := h
  simp only [Host.Core.run, h']

/-- With no action pending an IDLE block stays as it is (60_exceptions.md R141). -/
theorem step_idle_alone {s : State} (hin : s.inputs = []) (hp : s.phase = .idle) : step s = .next s := by
  rw [step_nil hin, popped_of_no_inputs hin]
  simp [engineMove, tileStep, hp, settle_same_phase]

/-- A run of an IDLE block with no action pending stays where it is. -/
theorem run_idle_alone {s : State} (hin : s.inputs = []) (hp : s.phase = .idle) (k : Nat) :
    Host.Core.run Sys2Proof.core k s = .next s := by
  induction k with
  | zero => rfl
  | succ k ih => rw [run_succ_of_step (step_idle_alone hin hp), ih]

/-- With no action pending a running job's step is its tile step. -/
theorem step_busy_alone {s : State} (inv : s.Inv) (hin : s.inputs = []) (hp : s.phase = .busy) :
    step s = .next (settle s (processTile s)) := by
  rw [step_nil hin, popped_of_no_inputs hin]
  simp [engineMove, tileStep_busy inv hp]

/-- Before its first tile a job has nothing to hold, and its source is that of memory as it is. -/
theorem tilesDone_at_start {s : State} (h : s.Running) (hc : s.cursor = ⟨0#16, 0#16⟩) : s.TilesDone s.mem := by
  obtain ⟨-, -, -, -, -, count⟩ := h
  have none : s.regs.progress.toNat = 0 := by
    rw [count, hc]
    simp
  refine ⟨fun col row c _ _ _ counted => ?_, fun x y c _ _ _ => rfl⟩
  omega

/-- What R121 says of the state in which a job begun from `m0` is complete: DONE's state, the bytes of the job `j`, and every
other byte as in `m`. -/
structure State.GridComplete (m0 m : Memory) (j : Job) (t : State) : Prop where
  phase : t.phase = .idle
  progress : t.regs.progress.toNat = j.tx.toNat * j.ty.toNat
  grid : ∀ col row c, col < j.tx.toNat → row < j.ty.toNat → c < 3 →
    Memory.read t.mem (j.dstAddr col row c) = jobByte m0 j col row c
  others : ∀ a, ¬ j.Writes a → Memory.read t.mem a = Memory.read m a

/-- A job that runs alone and has DONE set is complete. -/
theorem gridComplete_of_run {m0 : Memory} {s t : State} {k : Nat} (inv : s.Inv) (hin : s.inputs = [])
    (hp : s.phase = .busy) (hr : s.raced = false) (tiles : s.TilesDone m0)
    (hrun : Host.Core.run Sys2Proof.core k s = .next t) (hd : t.regs.done = true) : t.GridComplete m0 s.mem s.job := by
  induction k generalizing s with
  | zero =>
    obtain rfl := Host.Outcome.next.inj hrun
    obtain ⟨-, -, running⟩ := (inv_iff s).1 inv
    obtain ⟨notDone, -⟩ := running hp
    simp [notDone] at hd
  | succ k ih =>
    obtain ⟨regs, -, -, -, -, -, -, -, inputs⟩ := settle_frame s (processTile s)
    have mem := settle_mem_of_not_raced hr (processTile s)
    have alone : (settle s (processTile s)).inputs = [] := inputs.trans ((processTile_inputs s).trans hin)
    have others (a : Nat) (ha : ¬ s.job.Writes a) :
        Memory.read (settle s (processTile s)).mem a = Memory.read s.mem a := by
      rw [mem]
      exact read_processTile_of_not_writes inv hp ha
    obtain ⟨busy, done⟩ := gridKept_settle hp hr (gridKept_processTile inv hp hr tiles)
    rw [run_succ_of_step (step_busy_alone inv hin hp)] at hrun
    rcases (settle s (processTile s)).phase.idle_or_busy with ht | ht
    · obtain rfl := Host.Outcome.next.inj ((run_idle_alone alone ht k).symm.trans hrun)
      obtain ⟨-, -, running⟩ := (inv_iff s).1 inv
      obtain ⟨-, all⟩ := processTile_progress (running hp)
      exact ⟨ht, regs ▸ all (regs ▸ hd), done hd, others⟩
    · obtain ⟨job, raced, tiles'⟩ := busy ht
      have rest := ih (inv_settle s (inv_processTile inv hp)) alone ht raced tiles' hrun
      rw [job] at rest
      exact ⟨rest.phase, rest.progress, rest.grid, fun a ha => (rest.others a ha).trans (others a ha)⟩

end Sys2Proof.Machine
end

section
/-! PROOFS. The statements about the tile engine (42_tile_engine.md). -/

namespace Sys2Proof.Machine

open Sys2Proof

/-- Settles O46, by the kind of the next action: a tile step writes the tile that it counts from a source that nothing has
changed, and every other action leaves the job's ranges. -/
theorem everyInterleavingWritesTheTileGrid : Obligations.EveryInterleavingWritesTheTileGrid := by
  unfold Obligations.EveryInterleavingWritesTheTileGrid
  intro m0 s inv hp hr tiles keeps
  show ∃ t, step s = .next t ∧ t.GridKept m0 s.job
  have transaction (i : Instr) : ∃ t, exec i s.popped = .next t ∧ t.GridKept m0 s.job := by
    obtain ⟨t, h, -⟩ := exec_keeps_inv i (s := s.popped) inv
    exact ⟨t, h, gridKept_exec (s := s.popped) inv hp hr tiles h⟩
  cases hin : s.inputs with
  | nil =>
    rw [step_nil hin]
    exact engineMove_keeps_grid (s := s.popped) inv hp hr tiles
  | cons action rest =>
    cases action with
    | transaction key data =>
      rw [step_transaction hin]
      exact settleOutcome_keeps_grid (before := s.popped) hp hr (transaction _)
    | engine =>
      rw [step_engine hin]
      exact engineMove_keeps_grid (s := s.popped) inv hp hr tiles
    | hardReset => simp [State.nextActionKeepsJob, hin] at keeps
    | hostWrite addr value =>
      have outside : s.job.inRanges addr.toNat = false := by simpa [State.nextActionKeepsJob, hin] using keeps
      exact ⟨_, step_hostWrite hin, gridKept_hostWrite (s := s.popped) inv hp hr tiles outside value⟩
    | hostRead addr => exact ⟨_, step_hostRead hin, gridKept_hostRead (s := s.popped) inv hp hr tiles addr⟩
    | wait =>
      obtain ⟨t, h, kept⟩ := transaction .rdStatus
      exact ⟨_, by rw [step_wait hin, h]; rfl, gridKept_pollAgain kept⟩

/-- Settles O34: the three cases of the rounded mean, and at a half the even neighbour is even. -/
theorem roundMeanIsNearest : Obligations.RoundMeanIsNearest := by
  unfold Obligations.RoundMeanIsNearest
  intro sum n rnd hn _
  obtain ⟨above, below⟩ := roundMean_nearest (sum := sum) rnd hn
  refine ⟨above, below, roundMean_of_half, ?_, ?_⟩
  · rintro half rfl
    rw [roundMean_of_half half, if_pos rfl]
    omega
  · rintro rfl
    exact roundMean_up sum hn

/-- Settles O35: a quotient between two integers rounds to one between them. -/
theorem roundMeanStaysAmongTheSamples : Obligations.RoundMeanStaysAmongTheSamples := by
  unfold Obligations.RoundMeanStaysAmongTheSamples
  refine ⟨fun sum n rnd => roundMean_le_255 rnd, fun samples least greatest rnd nonempty bounds => ?_,
    fun sum rnd => ?_, fun v n rnd => roundMean_mul v rnd⟩
  · obtain ⟨low, high⟩ := sum_between bounds
    exact roundMean_between rnd (List.length_pos_iff.2 nonempty) low high
  · have one := roundMean_mul sum rnd (le_refl 1)
    rwa [Nat.one_mul] at one

/-- Settles O36: a pixel's tile is its coordinates divided by the block size, and each tile of the grid begins inside the
image. -/
theorem tilesPartitionTheImage : Obligations.TilesPartitionTheImage := by
  unfold Obligations.TilesPartitionTheImage
  intro j h
  refine ⟨fun x y hx hy => ⟨?_, ?_, fun col row => ?_⟩, fun col row hcol hrow => ⟨h.tileCount_pos hcol hrow,
    tileCount_le j col row, length_tilePixels j col row, fun p hp => ?_⟩, fun hw hh => ?_⟩
  · exact (h.col_lt_iff _).2 ((Nat.div_mul_le_self x _).trans_lt hx)
  · exact (h.row_lt_iff _).2 ((Nat.div_mul_le_self y _).trans_lt hy)
  · rw [mem_tilePixels_iff_div h.block_pos, eq_comm (a := col), eq_comm (a := row)]
    simp only [hx, hy, true_and]
  · obtain ⟨⟨hx, -⟩, hy, -⟩ := (mem_tilePixels_iff_div h.block_pos col row p.1 p.2).1 hp
    exact ⟨hx, hy⟩
  · obtain ⟨-, -, htx, hty, hcheck⟩ := h
    obtain ⟨⟨-, hw1, hh1⟩, -⟩ := (startCheck_none_iff _ j).1 hcheck
    refine ⟨htx.trans (ceilDiv_eq_one hw1 hw), hty.trans (ceilDiv_eq_one hh1 hh), ?_⟩
    simp [Job.tileCount, Job.x0, Job.x1, Job.y0, Job.y1, hw, hh]

/-- Settles O37: the registers are wide enough for the largest tile, so what the reads accumulate is exact. -/
theorem accumulatorsNeverOverflow : Obligations.AccumulatorsNeverOverflow := by
  unfold Obligations.AccumulatorsNeverOverflow
  intro m gaps j col row acc hb h
  obtain rfl := readTile_eq_ok h
  have small := tileCount_le_65536 hb col row
  refine ⟨accumulate_tile_cnt m hb col row, small, fun c => ⟨accumulate_tile_sum m hb col row c, ?_⟩⟩
  exact (tileSum_le m j col row c.val).trans (Nat.mul_le_mul_left 255 small)

/-- Settles O40: the step writes the tile, and a tile that is not the last leaves the cursor another to go to. -/
theorem tileStepWritesTheRoundedMeans : Obligations.TileStepWritesTheRoundedMeans := by
  unfold Obligations.TileStepWritesTheRoundedMeans
  intro s inv hp reads writes more
  obtain ⟨means, outside⟩ := tileWritten_writeAll inv hp
  refine ⟨_, (tileStep_busy inv hp).trans (congrArg _ (processTile_of_answered ⟨reads, writes⟩)), ?_⟩
  rcases advance_cases { s with acc := s.curAcc, mem := writeAll s.curWrites s.mem } with
    ⟨right, e⟩ | ⟨edge, down, e⟩ | ⟨edge, bottom, -⟩
  · rw [e, if_pos right]
    exact ⟨hp, rfl, means, outside, rfl, Prod.ext (dim_add_one right) rfl, rfl, rfl, rfl, rfl⟩
  · rw [e, if_neg edge]
    exact ⟨hp, rfl, means, outside, rfl, Prod.ext rfl (dim_add_one down), rfl, rfl, rfl, rfl⟩
  · exact absurd more (not_or.2 ⟨edge, bottom⟩)

/-- Settles O41: the step writes the tile, and the last tile leaves the cursor none to go to. -/
theorem lastTileCompletesTheJob : Obligations.LastTileCompletesTheJob := by
  unfold Obligations.LastTileCompletesTheJob
  intro s inv hp reads writes edge bottom
  obtain ⟨-, -, running⟩ := (inv_iff s).1 inv
  obtain ⟨means, outside⟩ := tileWritten_writeAll inv hp
  refine ⟨_, (tileStep_busy inv hp).trans (congrArg _ (processTile_of_answered ⟨reads, writes⟩)), ?_⟩
  rcases advance_cases { s with acc := s.curAcc, mem := writeAll s.curWrites s.mem } with
    ⟨right, -⟩ | ⟨-, down, -⟩ | ⟨-, -, e⟩
  · exact absurd right edge.not_lt
  · exact absurd down bottom.not_lt
  · have all := progress_of_last_tile (running hp) edge.not_lt bottom.not_lt
    rw [e]
    obtain ⟨busyBit, -⟩ := statusWord_bits .idle { s.regs with progress := s.regs.progress + 1#32, done := true }
    exact ⟨rfl, busyBit, rfl, all, fun hie => by simp [State.irq, Regs.irq, hie], means, outside⟩

/-- Settles O47: a job that runs alone from its first tile has only its own tile steps, up to the one that completes it. -/
theorem completedJobLeavesTheTileGrid : Obligations.CompletedJobLeavesTheTileGrid := by
  unfold Obligations.CompletedJobLeavesTheTileGrid
  intro s t k inv hin hp hc hr hrun hd
  obtain ⟨-, -, running⟩ := (inv_iff s).1 inv
  have start := tilesDone_at_start (running hp) hc
  obtain ⟨phase, progress, grid, others⟩ := gridComplete_of_run inv hin hp hr start hrun hd
  obtain ⟨-, -, startable, -⟩ := running hp
  refine ⟨phase, progress, fun col row c hcol hrow hk => ?_, fun a ha => others a ?_⟩
  · rw [grid col row c hcol hrow hk]
    exact jobByte_toNat s.mem (startable.tileCount_pos hcol hrow) c
  · rintro ⟨col, row, c, hcol, hrow, hk, e⟩
    exact ha col row c hcol hrow hk e

end Sys2Proof.Machine
end

section
/-! PROOFS. Where a tile step ends at an access that the platform refuses, and what it has written until then
(60_exceptions.md R128). -/

namespace Sys2Proof.Machine

open Sys2Proof

/-! ## The first failure in a rising list -/

/-- In a list that rises, what stands before an element is what lies below it. -/
theorem mem_before_iff {α : Type} {f : α → Nat} {l before after : List α} {p : α} (rises : (l.map f).Pairwise (· < ·))
    (split : l = before ++ p :: after) (q : α) : q ∈ before ↔ q ∈ l ∧ f q < f p := by
  subst split
  obtain ⟨-, rises, low⟩ := List.pairwise_append.1 (List.pairwise_map.1 rises)
  obtain ⟨high, -⟩ := List.pairwise_cons.1 rises
  constructor
  · exact fun hq => ⟨List.mem_append_left _ hq, low q hq p List.mem_cons_self⟩
  · rintro ⟨hq, below⟩
    rcases List.mem_append.1 hq with hq | hq
    · exact hq
    · rcases List.mem_cons.1 hq with rfl | hq
      · exact absurd below (lt_irrefl _)
      · exact absurd below (high q hq).not_gt

/-- In a list that rises, the least element that fails is the first one. -/
theorem eq_of_first_failure {α : Type} {f : α → Nat} {ok : Nat → Bool} {l before after : List α} {p q : α}
    (rises : (l.map f).Pairwise (· < ·)) (split : l = before ++ p :: after) (passed : ∀ r ∈ before, ok (f r) = true)
    (hp : ok (f p) = false) (mem : q ∈ l) (hq : ok (f q) = false) (below : ∀ r ∈ l, f r < f q → ok (f r) = true) :
    f p = f q := by
  have hpl : p ∈ l := by simp [split]
  rcases lt_trichotomy (f p) (f q) with lt | eq | gt
  · exact absurd hp (by simp [below p hpl lt])
  · exact eq
  · exact absurd hq (by simp [passed q ((mem_before_iff rises split q).2 ⟨mem, gt⟩)])

/-! ## The first refused read -/

theorem inTile_iff_mem_tilePixels (j : Job) (col row x y : Nat) : j.InTile col row x y ↔ (x, y) ∈ j.tilePixels col row := by
  rw [mem_tilePixels, and_assoc]
  rfl

/-- The first sample of the tile at the cursor that the platform refuses, in the order of 42_tile_engine.md R117, ends the
step: in that order the addresses rise. -/
theorem processTile_of_refused_read {s : State} (startable : s.job.Startable) {x y c : Nat}
    (inTile : s.job.InTile s.cursor.cbx.toNat s.cursor.cby.toNat x y) (hc : c < 3)
    (earlier : ∀ x' y' c', s.job.InTile s.cursor.cbx.toNat s.cursor.cby.toNat x' y' → c' < 3 →
      ReadBefore x' y' c' x y c → busOk s.busGaps (s.job.srcAddr x' y' c') .read = true)
    (refused : busOk s.busGaps (s.job.srcAddr x y c) .read = false) :
    ∃ acc, processTile s = raiseError .busRead (BitVec.ofNat 32 (s.job.srcAddr x y c)) { s with acc := acc } := by
  have pixel := (inTile_iff_mem_tilePixels ..).1 inTile
  have sample : ((⟨c, hc⟩ : Fin 3), s.job.srcAddr x y c) ∈ s.curReads := (mem_tileReads ..).2 ⟨(x, y), pixel, rfl⟩
  have below : ∀ r ∈ s.curReads, r.2 < s.job.srcAddr x y c → busOk s.busGaps r.2 .read = true := by
    rintro ⟨c', a⟩ hr lt
    obtain ⟨⟨x', y'⟩, pixel', rfl⟩ := (mem_tileReads ..).1 hr
    rcases eq_or_readBefore x y c x' y' c'.val with ⟨rfl, rfl, rfl⟩ | after | before
    · exact absurd lt (lt_irrefl _)
    · obtain ⟨⟨hx, -⟩, -⟩ := (mem_tilePixels_iff_div startable.block_pos _ _ x y).1 pixel
      exact absurd lt (rasterAddr_lt_of_readBefore startable.strides.1 hx hc after).not_gt
    · exact earlier x' y' c'.val ((inTile_iff_mem_tilePixels ..).2 pixel') c'.isLt before
  rcases processTile_cases s with ⟨_, _, a, _, split, passed, failed, e⟩ | ⟨reads, -⟩ | ⟨reads, -⟩
  · have first : a = s.job.srcAddr x y c :=
      eq_of_first_failure (ok := fun a => busOk s.busGaps a .read) (startable.tileReads_pairwise_lt _ _) split passed
        failed sample refused below
    exact ⟨_, first ▸ e⟩
  · exact absurd refused (by simp [reads _ sample])
  · exact absurd refused (by simp [reads _ sample])

/-! ## The first refused write -/

/-- The three destination bytes of a tile lie one after the other. -/
theorem curWrites_rise (s : State) : (s.curWrites.map Prod.fst).Pairwise (· < ·) :=
  rasterCell_pairwise_lt s.job.dst.toNat s.job.ds.toNat s.cursor.cbx.toNat s.cursor.cby.toNat

theorem curDst_lt_iff (s : State) (c k : Nat) : s.curDst c < s.curDst k ↔ c < k := Nat.add_lt_add_iff_left

theorem curWrite_mem {s : State} (legal : s.job.b.toNat ≤ 256) {c : Nat} (hc : c < 3) :
    (s.curDst c, s.curByte c) ∈ s.curWrites := by
  rw [curWrites_eq legal]
  interval_cases c <;> simp

/-- Where every read succeeds, the first write that the platform refuses ends the step after the writes of the channels
before it. -/
theorem processTile_of_refused_write {s : State} (legal : s.job.b.toNat ≤ 256)
    (reads : ∀ p ∈ s.job.tilePixels s.cursor.cbx.toNat s.cursor.cby.toNat, ∀ c, c < 3 →
      busOk s.busGaps (s.job.srcAddr p.1 p.2 c) .read = true)
    {k : Nat} (hk : k < 3) (earlier : ∀ c, c < k → busOk s.busGaps (s.curDst c) .write = true)
    (refused : busOk s.busGaps (s.curDst k) .write = false) :
    ∃ written, (∀ w, w ∈ written ↔ w ∈ s.curWrites ∧ w.1 < s.curDst k) ∧ written.Sublist s.curWrites ∧
      processTile s =
        raiseError .busWrite (BitVec.ofNat 32 (s.curDst k)) { s with acc := s.curAcc, mem := writeAll written s.mem } := by
  have own := curWrite_mem legal hk
  have below : ∀ w ∈ s.curWrites, w.1 < s.curDst k → busOk s.busGaps w.1 .write = true := by
    intro w hw lt
    obtain ⟨c, -, e⟩ := curWrites_mem_addr hw
    rw [e] at lt ⊢
    exact earlier c ((curDst_lt_iff s c k).1 lt)
  rcases processTile_cases s with
    ⟨_, c, a, _, split, -, failed, -⟩ | ⟨-, written, a, v, _, split, passed, failed, e⟩ | ⟨-, writes, -⟩
  · have hr : (c, a) ∈ s.curReads := by simp [split]
    obtain ⟨p, hp, rfl⟩ := (mem_tileReads ..).1 hr
    exact absurd failed (by simp [reads p hp c.val c.isLt])
  · obtain rfl : a = s.curDst k :=
      eq_of_first_failure (ok := fun a => busOk s.busGaps a .write) (curWrites_rise s) split passed failed own refused below
    exact ⟨written, mem_before_iff (curWrites_rise s) split, split ▸ List.sublist_append_left .., e⟩
  · exact absurd refused (by simp [writes _ own])

/-! ## Memory after the writes before it -/

/-- Writes to distinct addresses leave each its byte in memory. -/
theorem read_writeAll_mem {writes : List (Nat × Byte)} {m : Memory} (hm : Memory.wf m = true)
    (distinct : (writes.map Prod.fst).Nodup) {w : Nat × Byte} (hw : w ∈ writes) (inMemory : w.1 < Config.memSize) :
    Memory.read (writeAll writes m) w.1 = w.2 := by
  induction writes generalizing m with
  | nil => cases hw
  | cons v rest ih =>
    have hm' := wf_write m hm v.1 v.2
    obtain ⟨fresh, distinct⟩ := List.nodup_cons.1 distinct
    rcases List.mem_cons.1 hw with rfl | hw
    · calc Memory.read (writeAll (w :: rest) m) w.1
          = Memory.read (Memory.write m w.1 w.2) w.1 :=
            read_writeAll rest _ hm' w.1 fun u hu e => fresh (e ▸ List.mem_map_of_mem hu)
        _ = w.2 := by rw [read_write m hm w.1 w.2 inMemory, if_pos rfl]
    · exact ih hm' distinct hw

/-- The addresses of a job are words. -/
theorem toNat_ofNat_srcAddr {j : Job} (h : j.Startable) {col row x y c : Nat} (inTile : j.InTile col row x y) (hc : c < 3) :
    (BitVec.ofNat 32 (j.srcAddr x y c)).toNat = j.srcAddr x y c := by
  obtain ⟨⟨hx, -⟩, hy, -⟩ :=
    (mem_tilePixels_iff_div h.block_pos col row x y).1 ((inTile_iff_mem_tilePixels ..).1 inTile)
  obtain ⟨-, last⟩ := srcAddr_in_range j hx hy hc
  obtain ⟨fits, -⟩ := h.ranges
  exact Nat.mod_eq_of_lt (Nat.lt_succ_of_le (last.trans fits))

/-- The destination bytes of the tile at the cursor of a running job lie in memory. -/
theorem State.Running.curDst_lt {s : State} (h : s.Running) {c : Nat} (hc : c < 3) : s.curDst c < Config.memSize := by
  obtain ⟨-, -, startable, hcol, hrow, -⟩ := h
  obtain ⟨-, last⟩ := dstAddr_in_range s.job hcol hrow hc
  obtain ⟨-, fits, -⟩ := startable.ranges
  exact Nat.lt_succ_of_le (last.trans fits)

/-- The writes of the tile at the cursor below channel `k` leave the rounded means of those channels, and every other byte. -/
theorem tile_bytes_before {s : State} (inv : s.Inv) (hp : s.phase = .busy) {k : Nat} (hk : k < 3)
    {written : List (Nat × Byte)} (sub : written.Sublist s.curWrites)
    (mem : ∀ w, w ∈ written ↔ w ∈ s.curWrites ∧ w.1 < s.curDst k) :
    (∀ c, c < k → (Memory.read (writeAll written s.mem) (s.curDst c)).toNat =
        roundMean (tileSum s.mem s.job s.cursor.cbx.toNat s.cursor.cby.toNat c)
          (s.job.tileCount s.cursor.cbx.toNat s.cursor.cby.toNat) s.job.rnd) ∧
      ∀ a, (∀ c, c < k → a ≠ s.curDst c) → Memory.read (writeAll written s.mem) a = Memory.read s.mem a := by
  obtain ⟨hm, -, running⟩ := (inv_iff s).1 inv
  have ⟨_, _, startable, hcol, hrow, _⟩ := running hp
  have ⟨_, legal, _⟩ := startable
  refine ⟨fun c hc => ?_, fun a ha => read_writeAll written s.mem hm a fun w hw e => ?_⟩
  · have distinct : (written.map Prod.fst).Nodup := ((curWrites_rise s).sublist (sub.map _)).imp Nat.ne_of_lt
    have done : (s.curDst c, s.curByte c) ∈ written :=
      (mem _).2 ⟨curWrite_mem legal (hc.trans hk), (curDst_lt_iff s c k).2 hc⟩
    rw [read_writeAll_mem hm distinct done ((running hp).curDst_lt (hc.trans hk))]
    exact jobByte_toNat s.mem (startable.tileCount_pos hcol hrow) c
  · obtain ⟨own, lt⟩ := (mem w).1 hw
    obtain ⟨c, -, e'⟩ := curWrites_mem_addr own
    rw [e'] at lt e
    exact ha c ((curDst_lt_iff s c k).1 lt) e.symm

end Sys2Proof.Machine
end

section
/-! PROOFS. The interrupt as a function of flags and enables, and the two actions that meet at a job's end: the engine's move
and ABORT (60_exceptions.md R129 to R134). -/

namespace Sys2Proof.Machine

open Sys2Proof

/-! ## The interrupt -/

theorem Regs.irq_eq_true_iff (r : Regs) :
    r.irq = true ↔ (r.ieDone = true ∧ r.done = true) ∨ (r.ieErr = true ∧ r.err = true) ∨
      (r.ieWerr = true ∧ r.werr = true) := by
  simp [Regs.irq, or_assoc]

theorem Regs.irq_setErr (r : Regs) (code : ErrCode) (addr : Word) :
    (r.setErr code addr).irq = ((r.ieDone && r.done) || r.ieErr || (r.ieWerr && r.werr)) := by
  simp [Regs.irq]

theorem Regs.irq_setWerr (r : Regs) (code : WErrCode) :
    (r.setWerr code).irq = ((r.ieDone && r.done) || (r.ieErr && r.err) || r.ieWerr) := by
  simp [Regs.irq]

/-! ## The end of a run -/

theorem State.runOver_iff (s : State) : s.runOver = true ↔ s.inputs = [] ∧ s.phase = .idle := by
  simp [State.runOver]

/-! ## ABORT and the engine as next actions -/

theorem popped_inputs {s : State} {action : Action} {rest : List Action} (h : s.inputs = action :: rest) :
    s.popped.inputs = rest :=
  congrArg List.tail h

/-- An engine action on an IDLE block is taken off the list and changes nothing (log 14). -/
theorem step_engine_idle {s : State} {rest : List Action} (h : s.inputs = .engine :: rest) (idle : s.phase = .idle) :
    step s = .next s.popped := by
  have idle' : s.popped.phase = .idle := idle
  rw [step_engine h]
  simp [engineMove, tileStep, idle', settle_same_phase]

/-- An engine action on a BUSY block is a tile step, settled. -/
theorem step_engine_busy {s t : State} {rest : List Action} (h : s.inputs = .engine :: rest)
    (tile : tileStep s.popped = .next t) : step s = .next (settle s.popped t) := by
  rw [step_engine h]
  simp [engineMove, tile]

/-- A CMD write of 2 performs ABORT. -/
theorem step_abort {s : State} {rest : List Action} (h : s.inputs = .transaction 0x508#11 2#32 :: rest) :
    step s = .next (settle s.popped (completeWrite (runCommand .abort s.popped))) := by
  have asAbort : decode (.tx 0x508#11 2#32) = .wrCmd 2#32 := RegName.decode_write .cmd 2#32
  rw [step_transaction h, asAbort, exec_of_performedCommand (c := .abort) rfl]
  rfl

/-- ABORT on an IDLE block completes its write and does nothing else. -/
theorem step_abort_idle {s : State} {rest : List Action} (h : s.inputs = .transaction 0x508#11 2#32 :: rest)
    (idle : s.phase = .idle) : step s = .next (completeWrite s.popped) := by
  have idle' : s.popped.phase = .idle := idle
  rw [step_abort h, runCommand_abort_idle idle', settle_same_phase s.popped (completeWrite s.popped) rfl]

/-! ## A job at its last tile -/

/-- Where there is no gap the platform answers every access. -/
theorem busOk_of_no_gaps {gaps : List BusGap} (h : gaps = []) (a : Nat) (kind : AccessKind) :
    busOk gaps a kind = true := by
  rw [h]
  rfl

/-- The engine's action at the last tile, on a platform without gaps, ends the job with DONE. -/
theorem step_engine_last_tile {s : State} {rest : List Action} (h : s.inputs = .engine :: rest) (inv : s.Inv)
    (hp : s.phase = .busy) (gaps : s.busGaps = []) (edge : s.cursor.cbx.toNat + 1 = s.job.tx.toNat)
    (bottom : s.cursor.cby.toNat + 1 = s.job.ty.toNat) :
    ∃ t, step s = .next t ∧ t.phase = .idle ∧ t.regs.done = true ∧ t.regs.err = false ∧
      t.regs.progress.toNat = s.job.tx.toNat * s.job.ty.toNat ∧ t.inputs = rest := by
  obtain ⟨-, -, running⟩ := (inv_iff s).1 inv
  obtain ⟨-, noErr, -⟩ := running hp
  obtain ⟨u, tile, idle, -, regs, progress, -⟩ := lastTileCompletesTheJob s.popped inv hp
    (fun _ _ _ _ => busOk_of_no_gaps gaps _ _) (fun _ _ => busOk_of_no_gaps gaps _ _) edge bottom
  obtain rfl := Host.Outcome.next.inj ((tileStep_busy (s := s.popped) inv hp).symm.trans tile)
  obtain ⟨regs', -, phase', -, -, -, -, -, inputs'⟩ := settle_frame s.popped (processTile s.popped)
  refine ⟨_, step_engine_busy h tile, phase'.trans idle, ?_, ?_, ?_, ?_⟩
  · rw [regs', regs]
  · rw [regs', regs]
    exact noErr
  · rw [regs', progress]
    rfl
  · rw [inputs', processTile_inputs, popped_inputs h]

/-- ABORT on a BUSY block ends the job with ABORTED, and PROGRESS stays. -/
theorem step_abort_busy {s : State} {rest : List Action} (h : s.inputs = .transaction 0x508#11 2#32 :: rest)
    (hp : s.phase = .busy) :
    ∃ t, step s = .next t ∧ t.phase = .idle ∧ t.regs = s.regs.setErr .aborted 0#32 ∧ t.inputs = rest := by
  obtain ⟨regs, -, phase, -, -, -, -, -, inputs⟩ :=
    settle_frame s.popped (completeWrite (raiseError .aborted 0#32 s.popped))
  have raised : runCommand .abort s.popped = raiseError .aborted 0#32 s.popped := runCommand_abort_busy hp
  refine ⟨_, (step_abort h).trans (by rw [raised]), phase, regs, inputs.trans (popped_inputs h)⟩

/-- At the last tile PROGRESS is one tile short of the grid. -/
theorem progress_at_last_tile {s : State} (h : s.Running) (edge : s.cursor.cbx.toNat + 1 = s.job.tx.toNat)
    (bottom : s.cursor.cby.toNat + 1 = s.job.ty.toNat) :
    s.regs.progress.toNat = s.job.tx.toNat * s.job.ty.toNat - 1 := by
  have all := progress_of_last_tile h edge.not_lt bottom.not_lt
  have count := progress_add_one h
  obtain ⟨-, -, -, -, -, progress⟩ := h
  omega

end Sys2Proof.Machine
end

section
/-! PROOFS. The statements about exceptions and the interrupt (60_exceptions.md). -/

namespace Sys2Proof.Machine

open Sys2Proof

/-- Settles O27: whichever action comes first ends the job, and the other finds an IDLE block. -/
theorem abortAndTheLastTileComeInBothOrders : Obligations.AbortAndTheLastTileComeInBothOrders := by
  unfold Obligations.AbortAndTheLastTileComeInBothOrders
  refine fun s rest inv hp gaps edge bottom => ⟨fun hin => ?_, fun hin => ?_⟩
  · obtain ⟨t, first, idle, done, noErr, progress, pending⟩ := step_engine_last_tile hin inv hp gaps edge bottom
    refine ⟨t, _, first, step_abort_idle pending idle, idle, done, noErr, progress, popped_inputs pending⟩
  · obtain ⟨-, -, running⟩ := (inv_iff s).1 inv
    obtain ⟨t, first, idle, regs, pending⟩ := step_abort_busy hin hp
    have ⟨noDone, _⟩ := running hp
    have regs' : t.popped.regs = s.regs.setErr .aborted 0#32 := regs
    refine ⟨t, t.popped, first, step_engine_idle pending idle, ?_⟩
    rw [regs']
    exact ⟨idle, noDone, rfl, rfl, progress_at_last_tile (running hp) edge bottom, popped_inputs pending⟩

/-- Settles O42: the accesses of a tile come in the order of their addresses, so the first refused one is the least; the
writes before it are those of the lower channels. -/
theorem busErrorEndsTheJob : Obligations.BusErrorEndsTheJob := by
  unfold Obligations.BusErrorEndsTheJob
  intro s inv hp
  obtain ⟨-, -, running⟩ := (inv_iff s).1 inv
  have ⟨_, _, startable, _⟩ := running hp
  refine ⟨fun x y c inTile hc earlier refused => ?_, fun k hk reads earlier refused => ?_⟩
  · obtain ⟨acc, e⟩ := processTile_of_refused_read startable inTile hc earlier refused
    exact ⟨_, (tileStep_busy inv hp).trans (congrArg _ e), rfl, rfl, toNat_ofNat_srcAddr startable inTile hc, rfl, rfl,
      ⟨fun _ => rfl, rfl, rfl, rfl, rfl⟩⟩
  · have ⟨_, legal, _⟩ := startable
    obtain ⟨written, mem, sub, e⟩ := processTile_of_refused_write legal reads hk earlier refused
    exact ⟨_, (tileStep_busy inv hp).trans (congrArg _ e), rfl, rfl, Nat.mod_eq_of_lt ((running hp).curDst_lt hk), rfl, rfl,
      tile_bytes_before inv hp hk sub mem⟩

/-- Settles O8: with no action left an IDLE block's step is the engine's, which has none in IDLE. -/
theorem idleBlockWaits : Obligations.IdleBlockWaits := by
  unfold Obligations.IdleBlockWaits
  intro s ended
  obtain ⟨hin, idle⟩ := (State.runOver_iff s).1 ended
  exact step_idle_alone hin idle

/-- Settles O31, by the fields that an error entry sets and those that it leaves. -/
theorem errorEntryRecordsTheError : Obligations.ErrorEntryRecordsTheError := by
  unfold Obligations.ErrorEntryRecordsTheError
  intro s code addr
  obtain ⟨busyBit, -⟩ := statusWord_bits .idle (s.regs.setErr code addr)
  exact ⟨rfl, busyBit, rfl, s.regs.irq_setErr code addr, rfl, rfl, ⟨fun _ => rfl, rfl, rfl, rfl, rfl⟩⟩

/-- Settles O32: a host-protocol error writes WERR and its code alone. -/
theorem wErrEntryKeepsTheFirstCode : Obligations.WErrEntryKeepsTheFirstCode := by
  unfold Obligations.WErrEntryKeepsTheFirstCode
  exact fun s code => ⟨rfl, s.regs.irq_setWerr code, ⟨rfl, rfl, rfl, rfl⟩, ⟨fun _ => rfl, rfl, rfl, rfl, rfl⟩⟩

/-- Settles O33: irq is a function of the registers, and STATUS has it at bit 4. -/
theorem irqIsTheEnabledFlags : Obligations.IrqIsTheEnabledFlags := by
  unfold Obligations.IrqIsTheEnabledFlags
  refine ⟨fun s => ⟨s.regs.irq_eq_true_iff, ?_⟩, rfl⟩
  obtain ⟨-, -, -, -, irqBit⟩ := statusWord_bits s.phase s.regs
  exact irqBit

end Sys2Proof.Machine
end

section
/-! PROOFS. The end of a running job: within how many steps it comes when the job runs alone (70_reset_and_hazards.md R151),
what a hardware reset leaves of memory (R142, R143), what is open where another agent raced (R145), and START while BUSY
(R148). -/

namespace Sys2Proof.Machine

open Sys2Proof

/-! ## The steps of a job that runs alone -/

/-- PROGRESS counts fewer tiles than the grid of a running job has. -/
theorem State.Running.progress_lt {s : State} (h : s.Running) :
    s.regs.progress.toNat < s.job.tx.toNat * s.job.ty.toNat := by
  obtain ⟨-, -, -, hcol, hrow, count⟩ := h
  rw [count]
  exact tileIndex_lt hcol hrow

/-- A tile step ends the job, or counts its tile. -/
theorem processTile_ends_or_counts (s : State) :
    (processTile s).phase = .idle ∨ (processTile s).regs.progress = s.regs.progress + 1#32 := by
  rcases processTile_cases s with ⟨_, _, _, _, -, -, -, e⟩ | ⟨-, _, _, _, _, -, -, -, e⟩ | ⟨-, -, e⟩
  · rw [e]; exact .inl rfl
  · rw [e]; exact .inl rfl
  · obtain ⟨progress, -⟩ := advance_counts { s with acc := s.curAcc, mem := writeAll s.curWrites s.mem }
    rw [e]
    exact .inr progress

/-- A step of a job that runs alone ends it, or leaves it running alone with one more tile counted. -/
theorem step_busy_alone_ends_or_counts {s : State} (inv : s.Inv) (hin : s.inputs = []) (hp : s.phase = .busy) :
    ∃ t, step s = .next t ∧ t.Inv ∧ t.inputs = [] ∧ t.job = s.job ∧
      (t.phase = .idle ∨ t.regs.progress.toNat = s.regs.progress.toNat + 1) := by
  obtain ⟨regs, job, phase, -, -, -, -, -, inputs⟩ := settle_frame s (processTile s)
  obtain ⟨job', -⟩ := processTile_records s
  refine ⟨_, step_busy_alone inv hin hp, inv_settle s (inv_processTile inv hp),
    inputs.trans ((processTile_inputs s).trans hin), job.trans job', ?_⟩
  rw [phase, regs]
  refine (processTile_ends_or_counts s).imp_right fun counted => ?_
  obtain ⟨-, -, running⟩ := (inv_iff s).1 inv
  have ⟨_, _, _, _, _, count⟩ := running hp
  rw [counted, progress_add_one (running hp), count]

/-- A job that runs alone ends within as many steps as it has tiles left. -/
theorem run_alone_ends {n : Nat} {s : State} (inv : s.Inv) (hin : s.inputs = []) (hp : s.phase = .busy)
    (left : s.job.tx.toNat * s.job.ty.toNat ≤ s.regs.progress.toNat + n) :
    ∃ k t, k ≤ n ∧ Host.Core.run Sys2Proof.core k s = .next t ∧ t.phase = .idle := by
  induction n generalizing s with
  | zero =>
    obtain ⟨-, -, running⟩ := (inv_iff s).1 inv
    exact absurd (running hp).progress_lt left.not_gt
  | succ n ih =>
    obtain ⟨u, first, inv', hin', job, ends | counted⟩ := step_busy_alone_ends_or_counts inv hin hp
    · exact ⟨1, u, by omega, run_succ_of_step first 0, ends⟩
    · rcases u.phase.idle_or_busy with idle | busy
      · exact ⟨1, u, by omega, run_succ_of_step first 0, idle⟩
      · obtain ⟨k, t, le, rest, idle⟩ := ih inv' hin' busy (by rw [job, counted]; omega)
        exact ⟨k + 1, t, by omega, (run_succ_of_step first k).trans rest, idle⟩

/-! ## What the end of a job leaves open -/

/-- The byte is outside a tile where it is none of the tile's destination addresses. -/
theorem outsideTile_iff_not_mem_tileDst (j : Job) (col row a : Nat) :
    OutsideTile j col row a ↔ a ∉ j.tileDst col row := by
  have mem : a ∈ j.tileDst col row ↔ ∃ c, c < 3 ∧ a = j.dstAddr col row c := mem_rasterCell ..
  simp [OutsideTile, mem]

/-- Hardware reset leaves every byte but those of the tile that it may cut short. -/
theorem read_hardReset {s : State} (hm : Memory.wf s.mem = true) {a : Nat} (ha : s.phase = .busy → s.OutsideCur a) :
    Memory.read (hardReset s).mem a = Memory.read s.mem a := by
  rcases hardReset_mem s with ⟨-, mem⟩ | ⟨busy, mem⟩
  · rw [mem]
  · rw [mem]
    exact read_scramble _ _ _ hm a ((outsideTile_iff_not_mem_tileDst ..).1 (ha busy))

/-- Settling leaves every byte but the destination bytes of a raced job that ended. -/
theorem read_settle {before after : State} (hm : Memory.wf after.mem = true) {a : Nat}
    (ha : before.phase = .busy → before.raced = true → a ∉ before.job.allDst) :
    Memory.read (settle before after).mem a = Memory.read after.mem a := by
  rcases settle_mem before after with mem | ⟨busy, -, raced, mem⟩
  · rw [mem]
  · rw [mem]
    exact read_scramble _ _ _ hm a (ha busy raced)

/-- Where a job ends, settling does what the end brings and what a rise of irq then makes visible. -/
theorem settle_ends {before after : State} (hb : before.phase = .busy) (ha : after.phase = .idle) :
    settle before after = irqSeen before (jobEnded before.job before.raced after) := by
  simp [settle, hb, ha]

/-- The end of a job clears the mark of a race, and leaves the registers and the records. -/
theorem jobEnded_frame (job : Job) (raced : Bool) (after : State) :
    (jobEnded job raced after).raced = false ∧ (jobEnded job raced after).regs = after.regs ∧
      (jobEnded job raced after).unsynced = after.unsynced := by
  unfold jobEnded
  split
  · exact ⟨rfl, rfl, rfl⟩
  · exact ⟨rfl, rfl, rfl⟩

/-- A job that has ended is raced no longer. -/
theorem settle_ends_raced {before after : State} (hb : before.phase = .busy) (ha : after.phase = .idle) :
    (settle before after).raced = false := by
  obtain ⟨raced, -⟩ := jobEnded_frame before.job before.raced after
  rw [settle_ends hb ha]
  rcases irqSeen_cases before (jobEnded before.job before.raced after) with ⟨-, -, e⟩ | ⟨-, e⟩
  · rw [e]; exact raced
  · rw [e]; exact raced

/-- An action that leaves the block IDLE with irq 0 leaves the records: no rise of irq marks one. -/
theorem settle_unsynced_of_irq_low {before after : State} (ha : after.phase = .idle) (low : after.irq = false) :
    (settle before after).unsynced = after.unsynced := by
  rcases before.phase.idle_or_busy with idle | busy
  · rw [settle_same_phase before after (ha.trans idle.symm)]
  · obtain ⟨-, regs, unsynced⟩ := jobEnded_frame before.job before.raced after
    have low' : (jobEnded before.job before.raced after).irq = false := (congrArg Regs.irq regs).trans low
    rw [settle_ends busy ha]
    rcases irqSeen_cases before (jobEnded before.job before.raced after) with ⟨-, high, -⟩ | ⟨-, e⟩
    · simp [low'] at high
    · rw [e]; exact unsynced

/-! ## START while BUSY -/

theorem exec_start_busy {s : State} (busy : s.phase = .busy) :
    exec .start s = .next (completeWrite (raiseWErr .startWhileBusy s)) :=
  runCommand_start_busy busy ▸ exec_of_performedCommand (c := .start) rfl s

end Sys2Proof.Machine
end

section
/-! PROOFS. The statements about resets and hazards (70_reset_and_hazards.md). -/

namespace Sys2Proof.Machine

open Sys2Proof

/-- Settles O45: each step of a job that runs alone ends it or counts a tile, and PROGRESS stays below the number of
tiles. -/
theorem jobEndsWithinItsTiles : Obligations.JobEndsWithinItsTiles := by
  unfold Obligations.JobEndsWithinItsTiles
  exact fun s inv hin hp => run_alone_ends inv hin hp (Nat.le_add_left ..)

/-- Settles O50: the reset frees the tile at the cursor, settling frees the destination of a raced job, and irq is low, so
that no record is marked. -/
theorem hardwareResetKeepsMemory : Obligations.HardwareResetKeepsMemory := by
  unfold Obligations.HardwareResetKeepsMemory
  intro s rest hm hin
  obtain ⟨regs, idle, acc, gaps, response, hostByte, inputs, -, unsynced⟩ := hardReset_frame s.popped
  obtain ⟨regs', -, idle', -, acc', gaps', response', hostByte', inputs'⟩ := settle_frame s.popped (hardReset s.popped)
  have low : (hardReset s.popped).irq = false := congrArg Regs.irq regs
  refine ⟨_, step_hardReset hin, regs'.trans regs, idle'.trans idle, (congrArg Regs.irq regs').trans low,
    inputs'.trans (inputs.trans (popped_inputs hin)), gaps'.trans gaps, response'.trans response,
    hostByte'.trans hostByte, acc'.trans acc, (settle_unsynced_of_irq_low idle low).trans unsynced, fun a outside => ?_⟩
  calc Memory.read (settle s.popped (hardReset s.popped)).mem a
      = Memory.read (hardReset s.popped).mem a := read_settle (wf_hardReset s.popped hm) fun busy => (outside busy).2
    _ = Memory.read s.mem a := read_hardReset (s := s.popped) hm fun busy => (outside busy).1

/-- Settles O25: START on a BUSY block raises a host-protocol error, which writes WERR and its code alone. -/
theorem startWhileBusyIsRefused : Obligations.StartWhileBusyIsRefused := by
  unfold Obligations.StartWhileBusyIsRefused
  intro s busy
  have meaning : exec .start s = .next (writeRegs (s.regs.setWerr .startWhileBusy) s) := exec_start_busy busy
  exact ⟨_, meaning, writeFrame_writeRegs _ s, rfl, rfl, rfl⟩

/-- Settles O51: a memory write of an agent marks the job and leaves the block, and settling the end of the job then frees its
destination bytes alone. -/
theorem racedJobOpensOnlyItsDestination : Obligations.RacedJobOpensOnlyItsDestination := by
  unfold Obligations.RacedJobOpensOnlyItsDestination
  refine ⟨fun s addr value busy inRange => ?_, fun before after busy idle hm => ?_⟩
  · obtain ⟨-, regs, job, phase, cursor, acc, -, -, -, -, -, raced⟩ := hostWrite_frame addr value s
    exact ⟨by simp [raced, busy, inRange, Phase.isBusy], regs, job, phase, cursor, acc⟩
  · obtain ⟨regs, -, -, -, -, -, response, -⟩ := settle_frame before after
    refine ⟨regs, response, settle_ends_raced busy idle, fun a outside => read_settle hm fun _ _ => outside,
      fun notRaced a => ?_⟩
    rw [settle_mem_of_not_raced notRaced]

end Sys2Proof.Machine
end
